-- ==== Sys2Proof/Word.lean ====
section
/-! DEFINITION. The word types of the core (spec/00_scope.md R6, R8): bytes, 16-bit words, register numbers.
Nothing in the hardware is signed (R8). -/

namespace Sys2Proof

/-- 8 bits: a general register, a memory location, a counter (R20, R30, R50). -/
abbrev Byte := BitVec 8

/-- 16 bits: `pc`, `I`, a stack entry, an instruction word (R22, R24, R26, R70). -/
abbrev Word := BitVec 16

/-- The number of a general register, `0..15` (R20). -/
abbrev RegIdx := Fin 16

end Sys2Proof
end

