-- ==== Sys2Proof/Syntax.lean ====
section
/-! DEFINITION. The 34 instructions of spec/30_encoding.md R78 (spec/opcode_table.json), one constructor per row, in
the table's order. Operands carry their range in their type (R71, R77): a register number or a count is a `Fin 16`, an
immediate byte a `BitVec 8`, an address a `BitVec 12`. -/

namespace Sys2Proof

/-- An instruction of the core. `x` and `y` are the fields `X` and `Y`, `n` is `N`, `nn` is `NN`, `nnn` is `NNN`. -/
inductive Instr where
  /-- `00E0` clear the display (R140). -/
  | cls
  /-- `00EE` return (R100). -/
  | ret
  /-- `1NNN` jump (R101). -/
  | jp (nnn : BitVec 12)
  /-- `2NNN` call (R102). -/
  | call (nnn : BitVec 12)
  /-- `3XNN` skip if `VX = NN` (R103). -/
  | seImm (x : RegIdx) (nn : Byte)
  /-- `4XNN` skip if `VX != NN` (R104). -/
  | sneImm (x : RegIdx) (nn : Byte)
  /-- `5XY0` skip if `VX = VY` (R105). -/
  | seReg (x y : RegIdx)
  /-- `6XNN` load immediate (R110). -/
  | ldImm (x : RegIdx) (nn : Byte)
  /-- `7XNN` add immediate (R111). -/
  | addImm (x : RegIdx) (nn : Byte)
  /-- `8XY0` copy register (R112). -/
  | ldReg (x y : RegIdx)
  /-- `8XY1` bitwise OR (R113). -/
  | orReg (x y : RegIdx)
  /-- `8XY2` bitwise AND (R114). -/
  | andReg (x y : RegIdx)
  /-- `8XY3` bitwise exclusive OR (R115). -/
  | xorReg (x y : RegIdx)
  /-- `8XY4` add with carry flag (R116). -/
  | addReg (x y : RegIdx)
  /-- `8XY5` subtract (R117). -/
  | sub (x y : RegIdx)
  /-- `8XY6` shift right by one; `y` is in the word and ignored (R118). -/
  | shr (x y : RegIdx)
  /-- `8XY7` reverse subtract (R119). -/
  | subn (x y : RegIdx)
  /-- `8XYE` shift left by one; `y` is in the word and ignored (R120). -/
  | shl (x y : RegIdx)
  /-- `9XY0` skip if `VX != VY` (R106). -/
  | sneReg (x y : RegIdx)
  /-- `ANNN` load index (R130). -/
  | ldI (nnn : BitVec 12)
  /-- `BNNN` jump to `NNN + V0` (R108). -/
  | jpV0 (nnn : BitVec 12)
  /-- `CXNN` random byte AND `NN` (R121). -/
  | rnd (x : RegIdx) (nn : Byte)
  /-- `DXYN` draw a sprite of `n` rows (R141). -/
  | drw (x y : RegIdx) (n : Fin 16)
  /-- `EX9E` skip if key `VX` is pressed (R150). -/
  | skp (x : RegIdx)
  /-- `EXA1` skip if key `VX` is not pressed (R151). -/
  | sknp (x : RegIdx)
  /-- `FX07` read the delay counter (R160). -/
  | ldVxDT (x : RegIdx)
  /-- `FX0A` wait for a key (R152). -/
  | ldVxK (x : RegIdx)
  /-- `FX15` set the delay counter (R161). -/
  | ldDTVx (x : RegIdx)
  /-- `FX18` set the sound counter (R162). -/
  | ldSTVx (x : RegIdx)
  /-- `FX1E` add `VX` to `I` (R131). -/
  | addI (x : RegIdx)
  /-- `FX29` address of a font glyph (R132). -/
  | ldF (x : RegIdx)
  /-- `FX33` store three decimal digits (R133). -/
  | ldB (x : RegIdx)
  /-- `FX55` store `V0..VX` (R134). -/
  | storeRegs (x : RegIdx)
  /-- `FX65` load `V0..V(X-1)` (R135). -/
  | loadRegs (x : RegIdx)
  deriving DecidableEq, Repr

end Sys2Proof
end

