-- ==== Sys2Proof/WellFormed.lean ====
section
/-! DEFINITION. What must be checked of data that comes from outside the core.

An `Instr` needs no check: the range of every operand (R71: `X`, `Y`, `N` four bits, `NN` eight, `NNN` twelve) is its
type, so an ill-formed instruction cannot be written down and statements over all instructions carry no premise.
What can be ill-formed is what the host hands over: a program image (R54, R202) and a byte offered to the program load
port (R34, R36). -/

namespace Sys2Proof

/-- The first address of the program region (R51). -/
abbrev programBase : Nat := 0x200

/-- The number of bytes of memory (R6, R50). -/
abbrev memBytes : Nat := 4096

/-- The most bytes a program image may have without being cut (R6, R54): `4096 - 0x200 = 3584`. -/
abbrev maxImageBytes : Nat := memBytes - programBase

/-- A program image that fits the program region (R54); a longer one is truncated by the loader (R202). -/
def imageWellFormed (image : List Byte) : Bool := decide (image.length ≤ maxImageBytes)

/-- An address the program load port may write (R34: "only for addresses `0x200..0xFFF`"); the upper bound is the
width of `prog_addr`. -/
def loadAddrWellFormed (addr : BitVec 12) : Bool := decide (programBase ≤ addr.toNat)

end Sys2Proof
end

