-- ==== Sys2Proof/Config.lean ====
section
/-! DEFINITION. The parameters of spec/00_scope.md R7 and the free value of the model.
`FONT` is an OPEN parameter (D16): its type stands here, its value is an argument of `State.resetWith` and of `State.boot`,
held in State as `memory.font`, so that a statement over every state or every font is one for every font table; the
default table stands in Sys2Proof/Machine/Font.lean. The program image is an argument of `State.boot`
(Sys2Proof/Machine/Ports.lean). -/

namespace Sys2Proof.Config

/-- `FONT[0..79]` (R7): the 80 glyph bytes installed at `0x000..0x04F` at reset. -/
abbrev Font := Vector Byte 80

/-- `RAND_MOD` (R7, decided 250 by D6): a random draw lies in `[0, RAND_MOD)`. -/
abbrev randMod : Nat := 250

/-- `CPU_HZ` (R7). No rule depends on it (R188) and nothing in the model reads it. -/
def cpuHz : Nat := 500

/-- `TIMER_HZ` (R7). No rule depends on it (R188) and nothing in the model reads it. -/
def timerHz : Nat := 60

/-- The random source (R33, R121). FREE VALUE: the `k`-th draw is some number below `RAND_MOD` and nothing more is
known of it; two draws may be equal or not. Log entry 2. -/
opaque randomDraw : Nat → Fin randMod

end Sys2Proof.Config
end

