-- ==== Sys2Proof/Machine/Font.lean ====
section
/-! DEFINITION. The default value of the parameter `FONT[0..79]` of spec/00_scope.md R7 and the reset contents of memory
for any value of it (spec/10_state.md R37, spec/20_memory.md R51, R53). The table stands here, not in Config.lean, so
that a test that shows a glyph wrong can mend it. -/

namespace Sys2Proof.Machine

/-- The 80 glyph bytes. PRESUMED: R53's default table, which the spec takes from general knowledge; the repository's own
bytes are in no source (log entry 4, unsafe). Row `d` is the glyph of hexadecimal digit `d`, at `5*d`. -/
def fontTable : List Byte :=
  [0xF0, 0x90, 0x90, 0x90, 0xF0,
   0x20, 0x60, 0x20, 0x20, 0x70,
   0xF0, 0x10, 0xF0, 0x80, 0xF0,
   0xF0, 0x10, 0xF0, 0x10, 0xF0,
   0x90, 0x90, 0xF0, 0x10, 0x10,
   0xF0, 0x80, 0xF0, 0x10, 0xF0,
   0xF0, 0x80, 0xF0, 0x90, 0xF0,
   0xF0, 0x10, 0x20, 0x40, 0x40,
   0xF0, 0x90, 0xF0, 0x90, 0xF0,
   0xF0, 0x90, 0xF0, 0x10, 0xF0,
   0xF0, 0x90, 0xF0, 0x90, 0x90,
   0xE0, 0x90, 0xE0, 0x90, 0xE0,
   0xF0, 0x80, 0x80, 0x80, 0xF0,
   0xE0, 0x90, 0x90, 0x90, 0xE0,
   0xF0, 0x80, 0xF0, 0x80, 0xF0,
   0xF0, 0x80, 0xF0, 0x80, 0x80]

/-- The font table the machine has when the parameter is not varied (R7, R53). -/
def defaultFont : Config.Font := ⟨fontTable.toArray, rfl⟩

/-- What memory holds at an address after reset: the font at `0x000..0x04F`, 0 elsewhere (R37). -/
def resetByte (font : Config.Font) (a : Nat) : Byte := if h : a < 80 then font[a] else 0

end Sys2Proof.Machine
end

