-- ==== Sys2Proof/Machine/State.lean ====
section
/-! DEFINITION. The state of the core as spec/10_state.md gives it (R20 to R32), the ports of R34 that must be
remembered between two invocations, the reasons a step can stop, and the state after reset (R37).
INVENTORY.md's '## State' lists every field with its rule and reset value. -/

namespace Sys2Proof.Machine

/-- The status of a CPU cycle (R171), by name; `StatusCode.bits` is its 3-bit code. -/
inductive StatusCode where
  | ok
  | unknownOpcode
  | fetchOutOfBounds
  | memoryOutOfBounds
  | stackOverflow
  | stackUnderflow
  | keyIndexOutOfRange
  deriving DecidableEq, Repr

/-- What `status_out` carries (R34, R170): a code, the instruction word and the address it was fetched from. -/
structure Status where
  code : StatusCode
  word : Word
  addr : Word
  deriving DecidableEq, Repr

/-- The five faults of the core (R171 codes 2 to 6). The spec describes what raising one does (R178), so each is TAKEN
by `raiseFault` (Machine/Ops.lean) and gives a NEXT state with the latch set: no step answers `Host.Outcome.fault`
(log entry 9). -/
inductive Fault where
  /-- Raised by fetch when `pc > 4094` (R173). Safe: the latch is the spec's, and the core then executes nothing. -/
  | fetchOutOfBounds
  /-- Raised by `DXYN FX33 FX55 FX65` when a byte address exceeds 4095 (R174). Safe, as above. -/
  | memoryOutOfBounds
  /-- Raised by `2NNN` when `sp = 16` (R175). Safe, as above. -/
  | stackOverflow
  /-- Raised by `00EE` when `sp = 0` (R176). Safe, as above. -/
  | stackUnderflow
  /-- Raised by `EX9E` and `EXA1` when `VX > 15` (R177). Safe, as above. -/
  | keyIndexOutOfRange
  deriving DecidableEq, Repr

/-- Why a step is refused. No instruction is: the two refusals below `notModelled` are of a host request. -/
inductive Refusal where
  /-- An arm of `exec` that has no meaning yet. Raised by no arm: every instruction has its meaning. Safe. -/
  | notModelled (mnemonic : String)
  /-- A `load` request after the first CPU cycle, which R36 says the host may not make. Raised by `loadPort`. Safe:
  the spec gives such a write no effect. -/
  | loadPortClosed
  /-- A `load` request for an address below `0x200`, which R36 says the host may not make. Raised by `loadPort`. Safe:
  the spec gives such a write no effect. -/
  | loadBelowProgram
  deriving DecidableEq, Repr

/-- One thing the host asks of the core through the ports of R34, served whole and alone (R35, R36). -/
inductive Request where
  /-- `cpu_step` with the key levels `keys_in` and the random input `rand_in` (R73). `rnd = none` says that the host
  gives no particular draw: the draw is then the free value `Config.randomDraw` (log entry 2). -/
  | cpuCycle (keysIn : BitVec 16) (rnd : Option (Fin Config.randMod))
  /-- `timer_tick` (R186). -/
  | timerTick
  /-- `reset` (R200). -/
  | reset
  /-- `prog_we` with `prog_addr` and `prog_data` (R34, R202). -/
  | load (addr : BitVec 12) (data : Byte)
  deriving DecidableEq, Repr

/-- The 4096 bytes of memory (R27, R50). -/
structure Memory where
  /-- The parameter `FONT` (R7), the reset contents of `0x000..0x04F`. No rule changes it: a program that writes over the
  font changes the cells. Log entry 4. -/
  font : Config.Font
  /-- Address and byte pairs in one canonical form: addresses strictly rising, no entry equal to what an unlisted
  address reads as, which is its reset contents (`resetByte`, Machine/Font.lean). `Memory.wf` (Machine/Ops.lean)
  states the form. -/
  cells : List Host.Cell
  deriving DecidableEq, Repr

/-- The framebuffer (R29): 32 rows of 64 cells, bit `x` of row `y` being `display[y][x]`. -/
abbrev Display := Vector (BitVec 64) 32

/-- The Interpreter State. -/
structure State where
  /-- `V[0..15]` (R20, R21). -/
  v : Vector Byte 16
  /-- The program counter (R22, R23). -/
  pc : Word
  /-- The index register `I` (R24). -/
  i : Word
  /-- The number of return addresses held, `0..16` (R25). -/
  sp : Fin 17
  /-- The return stack (R26). -/
  stack : Vector Word 16
  /-- The memory (R27, R50). -/
  memory : Memory
  /-- The key levels sampled at the start of the CPU cycle, bit `k` for key `k`, 1 = pressed (R28). -/
  keyboard : BitVec 16
  /-- The framebuffer (R29). -/
  display : Display
  /-- The delay counter (R30). -/
  delay : Byte
  /-- The sound counter (R31). -/
  sound : Byte
  /-- The fault latch (R32): set by a fault, cleared only by reset. -/
  halted : Bool
  /-- The code of the latched fault (R32); its reset value 0 is `ok`. -/
  faultCode : StatusCode
  /-- The instruction word of the latched fault, 0 for a fetch fault (R32). -/
  faultWord : Word
  /-- The address the faulting instruction was fetched from, or the `pc` of a fetch fault (R32). -/
  faultAddr : Word
  /-- `status_out` (R34, R170), held until the next CPU cycle reports (R179). -/
  statusOut : Status
  /-- How many tone ticks have been emitted (R187), log entry 6. -/
  toneTicks : Nat
  /-- The program load port is still usable: no CPU cycle has begun since reset (R34, R36, R202), log entry 7. -/
  loadOpen : Bool
  /-- `rand_in` as presented in this CPU cycle (R33, R34), log entry 2. -/
  randIn : Option (Fin Config.randMod)
  /-- The model's own: how many random draws have been made, log entry 2. -/
  draws : Nat
  /-- The model's own: the host's requests not yet served, first one next, log entry 1. -/
  pending : List Request
  deriving DecidableEq, Repr

/-- The state right after reset of a machine with this font table (R7, R37, R200). Memory lists nothing: every address
reads as its reset contents. -/
def State.resetWith (font : Config.Font) : State where
  v := Vector.replicate 16 0
  pc := 0x200
  i := 0
  sp := 0
  stack := Vector.replicate 16 0
  memory := ⟨font, []⟩
  keyboard := 0
  display := Vector.replicate 32 0
  delay := 0
  sound := 0
  halted := false
  faultCode := .ok
  faultWord := 0
  faultAddr := 0
  statusOut := ⟨.ok, 0, 0⟩
  toneTicks := 0
  loadOpen := true
  randIn := none
  draws := 0
  pending := []

/-- The state right after reset, the font being the default table (R7, log entry 4). -/
def State.reset : State := State.resetWith defaultFont

end Sys2Proof.Machine
end

