-- ==== Sys2Proof/Machine/Ops.lean ====
section
/-! DEFINITION. The named operations over memory and registers, and the fault entry: the one place where a fault is
taken (spec/60_exceptions.md R178), with reset, the only way out of it (R179), beside it. -/

namespace Sys2Proof.Machine

/-! ### Statuses and faults by number (R171) -/

/-- The 3-bit code of a status (R171). -/
def StatusCode.bits : StatusCode → BitVec 3
  | .ok => 0
  | .unknownOpcode => 1
  | .fetchOutOfBounds => 2
  | .memoryOutOfBounds => 3
  | .stackOverflow => 4
  | .stackUnderflow => 5
  | .keyIndexOutOfRange => 6

/-- The status a fault reports (R171). -/
def Fault.code : Fault → StatusCode
  | .fetchOutOfBounds => .fetchOutOfBounds
  | .memoryOutOfBounds => .memoryOutOfBounds
  | .stackOverflow => .stackOverflow
  | .stackUnderflow => .stackUnderflow
  | .keyIndexOutOfRange => .keyIndexOutOfRange

/-! ### Memory (R50, R56) -/

/-- The byte listed for an address, else `unlisted`. -/
def cellsRead (unlisted : Byte) : List Host.Cell → Nat → Byte
  | [], _ => unlisted
  | (k, b) :: m, a => if k = a then b else cellsRead unlisted m a

/-- The cells without any for an address. -/
def cellsErase (m : List Host.Cell) (a : Nat) : List Host.Cell := m.filter (fun c => c.1 != a)

/-- Put a cell in its place among rising addresses. -/
def cellsInsert : List Host.Cell → Nat → Byte → List Host.Cell
  | [], a, b => [(a, b)]
  | (k, c) :: m, a, b => if k < a then (k, c) :: cellsInsert m a b else (a, b) :: (k, c) :: m

/-- The cells have rising addresses from `lo` up to 4095, and none holds its address's reset contents. -/
def cellsCanonical (font : Config.Font) : Nat → List Host.Cell → Bool
  | _, [] => true
  | lo, (k, b) :: m =>
    decide (lo ≤ k) && decide (k < memBytes) && decide (b ≠ resetByte font k) && cellsCanonical font (k + 1) m

/-- The byte at an address; an unlisted address reads as its reset contents. -/
def Memory.read (m : Memory) (a : Nat) : Byte := cellsRead (resetByte m.font a) m.cells a

/-- Write one byte, keeping the canonical form: the reset contents are not listed. -/
def Memory.write (m : Memory) (a : Nat) (b : Byte) : Memory :=
  { m with
    cells := if b = resetByte m.font a then cellsErase m.cells a else cellsInsert (cellsErase m.cells a) a b }

/-- The canonical form of a memory. -/
def Memory.wf (m : Memory) : Bool := cellsCanonical m.font 0 m.cells

/-- Write a list of bytes at ascending addresses from `a`. -/
def Memory.writeBytes : Memory → Nat → List Byte → Memory
  | m, _, [] => m
  | m, a, b :: bs => Memory.writeBytes (m.write a b) (a + 1) bs

/-- All of the `n` byte addresses `base, base + 1, …` exist (R56, R57): addresses are unbounded, never wrapped, and no
access at all needs no address. -/
def accessOk (base n : Nat) : Bool := n == 0 || decide (base + n - 1 ≤ 4095)

/-! ### Registers -/

/-- Write general register `x` (R9, R20). -/
def State.setV (s : State) (x : RegIdx) (b : Byte) : State := { s with v := s.v.set x b }

/-- Write the program counter (R9, R23). -/
def State.setPc (s : State) (a : Word) : State := { s with pc := a }

/-- Write the index register (R9, R24). -/
def State.setI (s : State) (a : Word) : State := { s with i := a }

/-- Replace the memory. -/
def State.setMemory (s : State) (m : Memory) : State := { s with memory := m }

/-- Replace the framebuffer. -/
def State.setDisplay (s : State) (d : Display) : State := { s with display := d }

/-- Write the delay counter (R9, R30). -/
def State.setDelay (s : State) (b : Byte) : State := { s with delay := b }

/-- Write the sound counter (R9, R31). -/
def State.setSound (s : State) (b : Byte) : State := { s with sound := b }

/-! ### Fault entry and its only exit (R178, R179, R200) -/

/-- Latch a fault for the instruction word `w` fetched from `a` and report it (R178 points 3 and 4). Nothing else
changes (R178 points 1 and 2). -/
def State.latchFault (s : State) (f : Fault) (w a : Word) : State :=
  { s with
    halted := true
    faultCode := f.code
    faultWord := w
    faultAddr := a
    statusOut := ⟨f.code, w, a⟩ }

/-- Taking a fault in the execute phase (R178). The word and address of the executing instruction are those the CPU
cycle put into `statusOut` when it fetched it (`State.beginInstr`, log entry 19). -/
def raiseFault (f : Fault) (s : State) : Host.Outcome State Fault Refusal :=
  .next (s.latchFault f s.statusOut.word s.statusOut.addr)

/-- Reset (R200): every piece of the core's state takes its value of R37, with the machine's own font table. What belongs
to the host outside the core stays: its requests still to be served, the random source and the tone ticks the sink has
received (log entry 8). -/
def State.resetCore (s : State) : State :=
  { State.resetWith s.memory.font with toneTicks := s.toneTicks, draws := s.draws, pending := s.pending }

/-! ### Accesses through `I` (R56, R137) -/

/-- Check the `n` byte addresses from `I` up before anything is written (R57, R137, R178): if one exceeds 4095 the
instruction raises `MemoryOutOfBounds`, else it makes its state change `k`. -/
def guardAccess (n : Nat) (k : State → State) (s : State) : Host.Outcome State Fault Refusal :=
  if accessOk s.i.toNat n then .next (k s) else raiseFault .memoryOutOfBounds s

end Sys2Proof.Machine
end

