-- ==== Sys2Proof/Machine/Operands.lean ====
section
/-! DEFINITION. Every operand form of the instruction set (spec/30_encoding.md R77, spec/42_index_memory.md R137):
registers, zero-extended addresses and bytes, and memory at `I + k`. -/

namespace Sys2Proof.Machine

/-- The register operand `V[x]` (R9). -/
def State.reg (s : State) (x : RegIdx) : Byte := s.v[x]

/-- The number of the flag register `VF` (R12, R21). -/
abbrev VF : RegIdx := 15

/-- `zext_16(NNN)` (R8, R77). -/
def zextAddr (nnn : BitVec 12) : Word := nnn.zeroExtend 16

/-- `zext_16` of a byte (R8). -/
def zextByte (b : Byte) : Word := b.zeroExtend 16

/-- The effective address `I + k`, in unbounded integers (R56, R137). -/
def State.ea (s : State) (k : Nat) : Nat := s.i.toNat + k

/-- The byte operand at `I + k` (R56), of an address already checked. -/
def State.loadAt (s : State) (k : Nat) : Byte := s.memory.read (s.ea k)

/-- The key levels: is key `k` pressed (R9, R28)? -/
def State.keyDown (s : State) (k : Nat) : Bool := s.keyboard.getLsbD k

/-- The random draw of this CPU cycle (R33, R121): the host's own where it presented one, else the free value
(log entry 2). -/
def State.draw (s : State) : Fin Config.randMod := s.randIn.getD (Config.randomDraw s.draws)

/-- A draw as the byte `rnd` (R121). -/
def State.drawByte (s : State) : Byte := BitVec.ofNat 8 s.draw.val

end Sys2Proof.Machine
end

