-- ==== Sys2Proof/Machine/Flags.lean ====
section
/-! DEFINITION. Every flag computation of the instruction set (spec/10_state.md R21): what the seven flag-writing
instructions put into `VF`. Sums are computed in unbounded integers (spec/41_alu.md R122). -/

namespace Sys2Proof.Machine

/-- The byte 1 where the condition holds, else 0. -/
def flag (c : Bool) : Byte := if c then 1 else 0

/-- `8XY4`: carry out of bit 7 (R116). -/
def carryFlag (a b : Byte) : Byte := flag (decide (a.toNat + b.toNat > 255))

/-- `8XY5`, `8XY7`: minuend strictly greater than subtrahend (R117, R119). -/
def greaterFlag (a b : Byte) : Byte := flag (decide (a.toNat > b.toNat))

/-- `8XY6`: bit 0, the bit shifted out (R118). -/
def lowBit (a : Byte) : Byte := a &&& 1

/-- `8XYE`: bit 7, the bit shifted out (R120). -/
def highBit (a : Byte) : Byte := (a &&& 0x80) >>> 7

/-- `FX1E`: the unbounded sum exceeds `0xFFF` (R131). -/
def indexFlag (i : Word) (b : Byte) : Byte := flag (decide (i.toNat + b.toNat > 0xFFF))

/-- `DXYN`: some set cell was turned off (R141). -/
def collisionFlag (hit : Bool) : Byte := flag hit

end Sys2Proof.Machine
end

