-- ==== Sys2Proof/Machine/Alu.lean ====
section
/-! DEFINITION. Register load, 8-bit arithmetic, logic, shifts and random (spec/41_alu.md): `6XNN 7XNN 8XY0 8XY1 8XY2 8XY3
8XY4 8XY5 8XY6 8XY7 8XYE CXNN`. Where `VF` and `VX` are both written, the writes are in the pseudocode's order and a later
statement reads what an earlier one wrote (R123, R124). `BitVec` arithmetic on bytes is reduced mod 256 (R122). -/

namespace Sys2Proof.Machine

/-- `6XNN` (R110). -/
def execLdImm (x : RegIdx) (nn : Byte) (s : State) : Host.Outcome State Fault Refusal :=
  .next (s.setV x nn)

/-- `7XNN` (R111): no flag. -/
def execAddImm (x : RegIdx) (nn : Byte) (s : State) : Host.Outcome State Fault Refusal :=
  .next (s.setV x (s.reg x + nn))

/-- `8XY0` (R112). -/
def execLdReg (x y : RegIdx) (s : State) : Host.Outcome State Fault Refusal :=
  .next (s.setV x (s.reg y))

/-- `8XY1` (R113). -/
def execOrReg (x y : RegIdx) (s : State) : Host.Outcome State Fault Refusal :=
  .next (s.setV x (s.reg x ||| s.reg y))

/-- `8XY2` (R114). -/
def execAndReg (x y : RegIdx) (s : State) : Host.Outcome State Fault Refusal :=
  .next (s.setV x (s.reg x &&& s.reg y))

/-- `8XY3` (R115). -/
def execXorReg (x y : RegIdx) (s : State) : Host.Outcome State Fault Refusal :=
  .next (s.setV x (s.reg x ^^^ s.reg y))

/-- `8XY4` (R116): both registers are read first. -/
def execAddReg (x y : RegIdx) (s : State) : Host.Outcome State Fault Refusal :=
  .next ((s.setV VF (carryFlag (s.reg x) (s.reg y))).setV x (s.reg x + s.reg y))

/-- `8XY5` (R117): the subtraction reads the registers after the flag is written. -/
def execSub (x y : RegIdx) (s : State) : Host.Outcome State Fault Refusal :=
  let flagged := s.setV VF (greaterFlag (s.reg x) (s.reg y))
  .next (flagged.setV x (flagged.reg x - flagged.reg y))

/-- `8XY6` (R118): `y` is not read. -/
def execShr (x _y : RegIdx) (s : State) : Host.Outcome State Fault Refusal :=
  let flagged := s.setV VF (lowBit (s.reg x))
  .next (flagged.setV x (flagged.reg x >>> 1))

/-- `8XY7` (R119): the subtraction reads the registers after the flag is written. -/
def execSubn (x y : RegIdx) (s : State) : Host.Outcome State Fault Refusal :=
  let flagged := s.setV VF (greaterFlag (s.reg y) (s.reg x))
  .next (flagged.setV x (flagged.reg y - flagged.reg x))

/-- `8XYE` (R120): `y` is not read. -/
def execShl (x _y : RegIdx) (s : State) : Host.Outcome State Fault Refusal :=
  let flagged := s.setV VF (highBit (s.reg x))
  .next (flagged.setV x (flagged.reg x <<< 1))

/-- `CXNN` (R121): the draw is any number below `RAND_MOD` (log entry 2), and the next execution draws anew. -/
def execRnd (x : RegIdx) (nn : Byte) (s : State) : Host.Outcome State Fault Refusal :=
  .next { s.setV x (s.drawByte &&& nn) with draws := s.draws + 1 }

end Sys2Proof.Machine
end

