-- ==== Sys2Proof/Machine/Display.lean ====
section
/-! DEFINITION. The display (spec/43_display.md): `00E0 DXYN`, over the cells of spec/10_state.md R29. -/

namespace Sys2Proof.Machine

/-- The cell in column `x` of row `y` (R29). Outside the 64 by 32 cells there is none, and the answer is off. -/
def Display.pixel (d : Display) (x y : Nat) : Bool :=
  match d[y]? with
  | some row => row.getLsbD x
  | none => false

/-- Flip the cell in column `x` of row `y` (R141: XOR 1); no cell, no change. -/
def Display.flip (d : Display) (x y : Nat) : Display :=
  if h : y < 32 then d.set y (d[y] ^^^ BitVec.twoPow 64 x) else d

/-- Bit `k` of the port `display_out` (R34): `display[y][x]` for `k = y*64 + x`. -/
def State.displayOut (s : State) (k : Nat) : Bool := s.display.pixel (k % 64) (k / 64)

/-- The picture so far and whether a set cell has been turned off. -/
abbrev Canvas := Display × Bool

/-- One pixel of a sprite (R141): a set bit inside the screen flips its cell, and collides if the cell was set; anything
else is dropped. -/
def plotBit (lit : Bool) (x y : Nat) (c : Canvas) : Canvas :=
  if lit && decide (y ≤ 31) && decide (x ≤ 63) then (c.1.flip x y, c.2 || c.1.pixel x y) else c

/-- One row of a sprite (R141): bit 7 is the leftmost of 8 pixels. -/
def plotRow (b : Byte) (x0 y : Nat) (c : Canvas) : Canvas :=
  (List.range 8).foldl (fun c k => plotBit (b.getLsbD (7 - k)) (x0 + k) y c) c

/-- The `n` rows of the sprite at `base` (R141), from `(x0, y0)` down. -/
def plotSprite (m : Memory) (base n x0 y0 : Nat) (c : Canvas) : Canvas :=
  (List.range n).foldl (fun c r => plotRow (m.read (base + r)) x0 (y0 + r) c) c

/-- `00E0` (R140). -/
def execCls (s : State) : Host.Outcome State Fault Refusal :=
  .next (s.setDisplay (Vector.replicate 32 0))

/-- `DXYN` (R141): the origin is read before `VF` is written, it wraps and the sprite is clipped; all `N` bytes are
checked whether or not their rows are clipped. -/
def execDrw (x y : RegIdx) (n : Fin 16) (s : State) : Host.Outcome State Fault Refusal :=
  guardAccess n.val
    (fun s =>
      let drawn := plotSprite s.memory (s.ea 0) n.val ((s.reg x).toNat % 64) ((s.reg y).toNat % 32) (s.display, false)
      (s.setV VF (collisionFlag drawn.2)).setDisplay drawn.1) s

end Sys2Proof.Machine
end

