-- ==== Sys2Proof/Machine/IndexMem.lean ====
section
/-! DEFINITION. The index register and memory transfer (spec/42_index_memory.md): `ANNN FX1E FX29 FX33 FX55 FX65`. -/

namespace Sys2Proof.Machine

/-- `ANNN` (R130). -/
def execLdI (nnn : BitVec 12) (s : State) : Host.Outcome State Fault Refusal :=
  .next (s.setI (zextAddr nnn))

/-- `FX1E` (R131): `VX` is read again after `VF` is written; the sum is kept mod 65536 (log entry 12). -/
def execAddI (x : RegIdx) (s : State) : Host.Outcome State Fault Refusal :=
  let flagged := s.setV VF (indexFlag s.i (s.reg x))
  .next (flagged.setI (s.i + zextByte (flagged.reg x)))

/-- `FX29` (R132): `VX` is not reduced to a nibble. -/
def execLdF (x : RegIdx) (s : State) : Host.Outcome State Fault Refusal :=
  .next (s.setI (zextByte (s.reg x) * 5))

/-- The decimal digits of a byte, hundreds first (R133). -/
def decimalDigits (b : Byte) : List Byte :=
  [BitVec.ofNat 8 (b.toNat / 100), BitVec.ofNat 8 (b.toNat / 10 % 10), BitVec.ofNat 8 (b.toNat % 10)]

/-- `FX33` (R133). -/
def execLdB (x : RegIdx) (s : State) : Host.Outcome State Fault Refusal :=
  guardAccess 3 (fun s => s.setMemory (s.memory.writeBytes (s.ea 0) (decimalDigits (s.reg x)))) s

/-- The registers `V0..VX` inclusive, lowest first (R134). -/
def State.regsTo (s : State) (x : RegIdx) : List Byte := s.v.toList.take (x.val + 1)

/-- `FX55` (R134): stores `X + 1` bytes, then `I` grows by `X + 1`. -/
def execStoreRegs (x : RegIdx) (s : State) : Host.Outcome State Fault Refusal :=
  guardAccess (x.val + 1)
    (fun s => (s.setMemory (s.memory.writeBytes (s.ea 0) (s.regsTo x))).setI (s.i + BitVec.ofNat 16 (x.val + 1))) s

/-- Load `V0..V(n-1)` from `I` up, in ascending order (R135). -/
def State.loadFirst (s : State) : Nat → State
  | 0 => s
  | n + 1 =>
    let s' := s.loadFirst n
    { s' with v := s'.v.setIfInBounds n (s.loadAt n) }

/-- `FX65` (R135): loads `X` registers, not `X + 1`; `I` is unchanged (log entry 13). -/
def execLoadRegs (x : RegIdx) (s : State) : Host.Outcome State Fault Refusal :=
  guardAccess x.val (fun s => s.loadFirst x.val) s

end Sys2Proof.Machine
end

