-- ==== Sys2Proof/Machine/Keyboard.lean ====
section
/-! DEFINITION. The keyboard instructions (spec/44_keyboard.md): `EX9E EXA1 FX0A`. -/

namespace Sys2Proof.Machine

/-- `EX9E` (R150, R153): a key index above 15 is a fault; it is not masked. -/
def execSkp (x : RegIdx) (s : State) : Host.Outcome State Fault Refusal :=
  if (s.reg x).toNat > 15 then raiseFault .keyIndexOutOfRange s
  else .next (s.skipIf (s.keyDown (s.reg x).toNat))

/-- `EXA1` (R151, R153). -/
def execSknp (x : RegIdx) (s : State) : Host.Outcome State Fault Refusal :=
  if (s.reg x).toNat > 15 then raiseFault .keyIndexOutOfRange s
  else .next (s.skipIf (!s.keyDown (s.reg x).toNat))

/-- The lowest-indexed pressed key (R152: "ascending index order"). -/
def State.lowestKey (s : State) : Option Nat := (List.range 16).find? s.keyDown

/-- `FX0A` (R152): with no key down `pc` goes back to this instruction. -/
def execLdVxK (x : RegIdx) (s : State) : Host.Outcome State Fault Refusal :=
  match s.lowestKey with
  | some k => .next (s.setV x (BitVec.ofNat 8 k))
  | none => .next (s.setPc (s.pc - 2))

end Sys2Proof.Machine
end

