-- ==== Sys2Proof/Machine/Timers.lean ====
section
/-! DEFINITION. The timer instructions (spec/45_timers.md): `FX07 FX15 FX18`, and the Timer Tick
(spec/60_exceptions.md R186, R187), which is no instruction. -/

namespace Sys2Proof.Machine

/-- `FX07` (R160). -/
def execLdVxDT (x : RegIdx) (s : State) : Host.Outcome State Fault Refusal :=
  .next (s.setV x s.delay)

/-- `FX15` (R161). -/
def execLdDTVx (x : RegIdx) (s : State) : Host.Outcome State Fault Refusal :=
  .next (s.setDelay (s.reg x))

/-- `FX18` (R162). -/
def execLdSTVx (x : RegIdx) (s : State) : Host.Outcome State Fault Refusal :=
  .next (s.setSound (s.reg x))

/-- A counter that floors at 0 (R186). -/
def countDown (b : Byte) : Byte := if b = 0 then 0 else b - 1

/-- The Timer Tick (R186, R187), performed whether or not the core has halted (R189): it touches the two counters and
emits one tone tick when it finds `sound > 0`. -/
def State.timerTick (s : State) : State :=
  { s with
    delay := countDown s.delay
    sound := countDown s.sound
    toneTicks := if s.sound = 0 then s.toneTicks else s.toneTicks + 1 }

end Sys2Proof.Machine
end

