-- ==== Sys2Proof/Machine/Ports.lean ====
section
/-! DEFINITION. What a CPU cycle does around the execute phase (spec/30_encoding.md R73) and what the host does through
the other ports (spec/10_state.md R34, R36): sampling the inputs, fetching, the status of an unknown word, the program
load port and the boot image (spec/70_reset_and_hazards.md R202). -/

namespace Sys2Proof.Machine

/-- Step 1 of the CPU cycle (R73): the key levels and the random input are sampled. From the first CPU cycle on the
load port is closed (R36). -/
def State.sampleInputs (s : State) (keysIn : BitVec 16) (rnd : Option (Fin Config.randMod)) : State :=
  { s with keyboard := keysIn, randIn := rnd, loadOpen := false }

/-- The instruction fetch (R56, R73): two bytes at `pc`, or nothing when `pc > 4094`. No alignment is asked (R55). -/
def State.fetchWord (s : State) : Option Word :=
  if s.pc.toNat > 4094 then none
  else some (wordOfBytes (s.memory.read s.pc.toNat) (s.memory.read (s.pc.toNat + 1)))

/-- Step 3 of the CPU cycle: `pc` is advanced by 2; the status is `OK` with the word and its address unless the execute
phase reports otherwise (R73 steps 3 and 6). -/
def State.beginInstr (s : State) (w : Word) : State :=
  { s with statusOut := ⟨.ok, w, s.pc⟩, pc := s.pc + 2 }

/-- The execute phase of a word of no row (R76, R172): a status, nothing else. -/
def State.unknownOpcode (s : State) : State :=
  { s with statusOut := { s.statusOut with code := .unknownOpcode } }

/-- The program load port (R34, R202). Outside its window or below the program region the host may not use it (R36) and
the request is refused by name (log entry 7). -/
def loadPort (addr : BitVec 12) (data : Byte) (s : State) : Host.Outcome State Fault Refusal :=
  if !s.loadOpen then .refused .loadPortClosed
  else if !loadAddrWellFormed addr then .refused .loadBelowProgram
  else .next (s.setMemory (s.memory.write addr.toNat data))

/-- The state in which a program starts (R202, R204) on a machine with this font table (R7): reset, then the image at
`0x200`, cut to its first 3584 bytes (R54). Log entry 14. -/
def State.boot (font : Config.Font) (image : List Byte) : State :=
  let s := State.resetWith font
  s.setMemory (s.memory.writeBytes programBase (image.take maxImageBytes))

/-- The requests with a CPU cycle first; `[]` already stands for one. -/
def cpuCycleFirst (keys : BitVec 16) : List Request → List Request
  | [] => []
  | .cpuCycle k r :: rest => .cpuCycle k r :: rest
  | rest => .cpuCycle keys none :: rest

/-- Clear the fault latch, which only reset does on the machine (R179); it stands for a word placed from outside. -/
def State.clearLatch (s : State) : State :=
  { s with halted := false, faultCode := .ok, faultWord := 0, faultAddr := 0 }

/-- `s` with a word placed where the very next step fetches (log entry 18): at `pc`, high byte first (R58), or at
`0x200` where nothing can be fetched at `pc`; not halted; with a CPU cycle as the next request. -/
def State.placeWord (s : State) (w : Word) : State :=
  let pc : Word := if s.pc.toNat > 4094 then 0x200 else s.pc
  let s := if s.halted then s.clearLatch else s
  { s with
    pc := pc
    memory := s.memory.writeBytes pc.toNat [hiByte w, loByte w]
    pending := cpuCycleFirst s.keyboard s.pending }

end Sys2Proof.Machine
end

