-- ==== Sys2Proof/Machine/Cycle.lean ====
section
/-! DEFINITION. The CPU cycle (spec/30_encoding.md R73) and the serving of one request of the host
(spec/10_state.md R34, R35). -/

namespace Sys2Proof.Machine

/-- Decode and execute the word `w` in a state that has already fetched it (R73 step 5, R76). -/
def runWord (w : Word) (s : State) : Host.Outcome State Fault Refusal :=
  match decode w with
  | .ok i => exec i s
  | .error _ => .next s.unknownOpcode

/-- The CPU cycle `CpuCycle(keys_in, rnd)` (R73). While halted it does nothing (R179). -/
def cpuCycle (keysIn : BitVec 16) (rnd : Option (Fin Config.randMod)) (s : State) :
    Host.Outcome State Fault Refusal :=
  if s.halted then .next s
  else
    let sampled := s.sampleInputs keysIn rnd
    match sampled.fetchWord with
    | none => .next (sampled.latchFault .fetchOutOfBounds 0 sampled.pc)
    | some w => runWord w (sampled.beginInstr w)

/-- Serve one request of the host (R34, R35). -/
def serve (r : Request) (s : State) : Host.Outcome State Fault Refusal :=
  match r with
  | .cpuCycle keysIn rnd => cpuCycle keysIn rnd s
  | .timerTick => .next s.timerTick
  | .reset => .next s.resetCore
  | .load addr data => loadPort addr data s

/-- The request that comes next: the first one waiting; with none waiting, a CPU cycle with the keys as they are (R28:
"A key keeps its value until the host changes it") and no particular draw (log entry 1). -/
def State.nextRequest (s : State) : Request :=
  s.pending.headD (.cpuCycle s.keyboard none)

/-- The state with that request taken off the list. -/
def State.popRequest (s : State) : State := { s with pending := s.pending.tail }

end Sys2Proof.Machine
end

