-- ==== Sys2Proof/Machine/Step.lean ====
section
/-! DEFINITION. One step of the machine: one request of the host is served, whole and alone (spec/10_state.md R35,
spec/60_exceptions.md R180). -/

namespace Sys2Proof.Machine

/-- One step (R35): the next request is taken and served. -/
def step (s : State) : Host.Outcome State Fault Refusal :=
  serve s.nextRequest s.popRequest

/-- `s` with the table word `w` placed so that the very next step fetches and runs it (log entry 18). -/
def State.withFetchWord (s : State) (nbits w : Nat) : State :=
  s.placeWord (BitVec.ofNat 16 (w % 2 ^ nbits))

end Sys2Proof.Machine
end

