-- ==== Sys2Proof/Safety.lean ====
section
/-! DEFINITION. The terms the statements use: the invariant of a consistent state (spec/10_state.md R38), the end of a
run (spec/70_reset_and_hazards.md R210), what a step starts from, and what an instruction leaves unchanged. -/

namespace Sys2Proof.Machine

/-! ### Consistent states -/

/-- The fault latch and what it reports agree (R32, R178, R179): a halted core shows the latched fault on
`status_out`, a running one has nothing latched. -/
structure State.LatchConsistent (s : State) : Prop where
  shown : s.halted = true → s.statusOut = ⟨s.faultCode, s.faultWord, s.faultAddr⟩
  isFault : s.halted = true → ∃ f : Fault, s.faultCode = f.code
  closed : s.halted = true → s.loadOpen = false
  clear : s.halted = false → s.faultCode = .ok ∧ s.faultWord = 0 ∧ s.faultAddr = 0

/-- What holds at every point between two invocations (R38): memory is in its canonical form, `pc` has not been led
above `0x10FE`, a pushed return address is at most 4096 (R100), and the latch is consistent. `0 ≤ sp ≤ 16` and the byte
ranges are the fields' types. -/
structure State.Inv (s : State) : Prop where
  memory : s.memory.wf = true
  pc : s.pc.toNat ≤ 0x10FE
  stack : ∀ k : Fin 16, s.stack[k].toNat ≤ 4096
  latch : s.LatchConsistent

/-- No fault has latched (R179: "a faulted state is never a final state of a program", which `State.Finished` asks). -/
def State.Safe (s : State) : Prop := s.halted = false

/-! ### What a step starts from -/

/-- The big-endian word at `a` (R58). -/
def State.wordAt (s : State) (a : Nat) : Word := wordOfBytes (s.memory.read a) (s.memory.read (a + 1))

/-- The end of a run by R210 (c): no fault has latched (R179, R210 (b)) and `pc` is at a word `1NNN` that jumps to
itself. -/
def State.Finished (s : State) : Prop :=
  s.Safe ∧ s.pc.toNat ≤ 4094 ∧ ∃ nnn : BitVec 12, s.wordAt s.pc.toNat = encode (.jp nnn) ∧ s.pc = zextAddr nnn

/-- The next step is a CPU cycle with these inputs, and `rest` then remains to be served: either the host has asked for
one, or it has asked for nothing (log entry 1). -/
def State.NextIsCycle (s : State) (keysIn : BitVec 16) (rnd : Option (Fin Config.randMod)) (rest : List Request) : Prop :=
  s.pending = .cpuCycle keysIn rnd :: rest ∨
    (s.pending = [] ∧ keysIn = s.keyboard ∧ rnd = none ∧ rest = [])

/-- The state in which the execute phase of a CPU cycle begins (R73 steps 1 to 3), `w` being the word fetched. -/
def State.started (s : State) (keysIn : BitVec 16) (rnd : Option (Fin Config.randMod)) (rest : List Request)
    (w : Word) : State :=
  { s with
    pending := rest
    keyboard := keysIn
    randIn := rnd
    loadOpen := false
    statusOut := ⟨.ok, w, s.pc⟩
    pc := s.pc + 2 }

/-! ### Frames -/

/-- A part of the state an instruction may write. -/
inductive Part where
  | reg (r : RegIdx)
  | pc
  | index
  | stack
  | memory
  | display
  | delay
  | sound
  | latch
  | draws
  deriving DecidableEq, Repr

/-- `t` differs from `s` in the listed parts at most. `stack` is the return stack with `sp`; `latch` is the fault latch
with `status_out`; `draws` is the model's count of random draws. Memory is said byte by byte. The key levels, the random
input, the load window, the tone ticks, the host's requests and the font parameter are no instruction's to write and are
always kept. -/
structure Frame (written : List Part) (s t : State) : Prop where
  regs : ∀ r : RegIdx, Part.reg r ∉ written → t.reg r = s.reg r
  pc : Part.pc ∉ written → t.pc = s.pc
  index : Part.index ∉ written → t.i = s.i
  stack : Part.stack ∉ written → t.sp = s.sp ∧ t.stack = s.stack
  memory : Part.memory ∉ written → ∀ a, t.memory.read a = s.memory.read a
  display : Part.display ∉ written → t.display = s.display
  delay : Part.delay ∉ written → t.delay = s.delay
  sound : Part.sound ∉ written → t.sound = s.sound
  latch : Part.latch ∉ written → t.halted = s.halted ∧ t.faultCode = s.faultCode ∧ t.faultWord = s.faultWord ∧
    t.faultAddr = s.faultAddr ∧ t.statusOut = s.statusOut
  draws : Part.draws ∉ written → t.draws = s.draws
  inputs : t.keyboard = s.keyboard ∧ t.randIn = s.randIn ∧ t.loadOpen = s.loadOpen
  outputs : t.toneTicks = s.toneTicks
  requests : t.pending = s.pending
  parameter : t.memory.font = s.memory.font

/-- The execute phase raised `f` (R178): the latch and `status_out` record its code with the word and the address of the
executing instruction, which stand in `statusOut` from the fetch on (log entry 19), and nothing else changed. -/
def Raised (f : Fault) (s t : State) : Prop :=
  t.halted = true ∧ t.faultCode = f.code ∧ t.faultWord = s.statusOut.word ∧ t.faultAddr = s.statusOut.addr ∧
    t.statusOut = ⟨f.code, s.statusOut.word, s.statusOut.addr⟩ ∧ Frame [.latch] s t

/-- The core's own state (R37), all of it, and the font parameter: `t` holds what `s` holds. -/
structure SameCore (s t : State) : Prop where
  regs : ∀ r : RegIdx, t.reg r = s.reg r
  pc : t.pc = s.pc
  index : t.i = s.i
  stack : t.sp = s.sp ∧ t.stack = s.stack
  memory : t.memory.font = s.memory.font ∧ ∀ a, t.memory.read a = s.memory.read a
  keyboard : t.keyboard = s.keyboard
  display : t.display = s.display
  counters : t.delay = s.delay ∧ t.sound = s.sound
  latch : t.halted = s.halted ∧ t.faultCode = s.faultCode ∧ t.faultWord = s.faultWord ∧ t.faultAddr = s.faultAddr

/-- The cell `(x, y)` is covered by a set bit of the `n`-row sprite at `base` drawn from `(x0, y0)` (R141, R143): row
`r` of the sprite lies on display row `y0 + r`, bit 7 of a row on column `x0`. -/
def spriteCovers (m : Memory) (base n x0 y0 x y : Nat) : Bool :=
  decide (x ≤ 63) && decide (y ≤ 31) && decide (x0 ≤ x) && decide (x < x0 + 8) && decide (y0 ≤ y) &&
    decide (y < y0 + n) && (m.read (base + (y - y0))).getLsbD (7 - (x - x0))

/-- The load requests of a program image, byte `k` to `0x200 + k` (R202). -/
def loadRequestsFrom : Nat → List Byte → List Request
  | _, [] => []
  | a, b :: bs => .load (BitVec.ofNat 12 a) b :: loadRequestsFrom (a + 1) bs

/-! ### Kinds of instruction -/

/-- The seven instructions that write `VF` as a flag (R21). -/
def writesFlag : Instr → Bool
  | .addReg _ _ | .sub _ _ | .shr _ _ | .subn _ _ | .shl _ _ | .drw _ _ _ | .addI _ => true
  | _ => false

/-- The six skip instructions (R23, R107). -/
def isSkip : Instr → Bool
  | .seImm _ _ | .sneImm _ _ | .seReg _ _ | .sneReg _ _ | .skp _ | .sknp _ => true
  | _ => false

/-- The three timer instructions (spec/45_timers.md). -/
def usesTimers : Instr → Bool
  | .ldVxDT _ | .ldDTVx _ | .ldSTVx _ => true
  | _ => false

/-- The parts of the state each instruction may write, by the column "written by" of spec/10_state.md section 1 and the
column "raised by" of R171; `CXNN` also counts a draw. -/
def writtenParts : Instr → List Part
  | .cls => [.display]
  | .ret => [.pc, .stack, .latch]
  | .call _ => [.pc, .stack, .latch]
  | .jp _ | .jpV0 _ => [.pc]
  | .seImm _ _ | .sneImm _ _ | .seReg _ _ | .sneReg _ _ => [.pc]
  | .skp _ | .sknp _ => [.pc, .latch]
  | .ldImm x _ | .addImm x _ | .ldReg x _ | .orReg x _ | .andReg x _ | .xorReg x _ | .ldVxDT x => [.reg x]
  | .addReg x _ | .sub x _ | .shr x _ | .subn x _ | .shl x _ => [.reg x, .reg VF]
  | .rnd x _ => [.reg x, .draws]
  | .ldI _ | .ldF _ => [.index]
  | .addI _ => [.index, .reg VF]
  | .drw _ _ _ => [.display, .reg VF, .latch]
  | .ldVxK x => [.reg x, .pc]
  | .ldDTVx _ => [.delay]
  | .ldSTVx _ => [.sound]
  | .ldB _ => [.memory, .latch]
  | .storeRegs _ => [.memory, .index, .latch]
  | .loadRegs x => .latch :: ((List.finRange 16).filter (· < x)).map .reg

end Sys2Proof.Machine
end

