-- ==== Sys2Proof/Certificates/Slice0/Obligations.lean ====
section
/-! DEFINITION. The statements for the provers. Each docstring says which sentence of spec/ it formalises.
An instruction's statement is about `exec`, in whose states `pc` is already past the instruction (spec/00_scope.md R10);
`StepRunsTheDecodedInstruction` carries it to a step. `Frame parts s t` says that nothing outside `parts` changed. -/

open Sys2Proof Sys2Proof.Machine

/-! ### Encoding (spec/30_encoding.md) -/

/-- R81: the bytes `60 05 61 03 80 14` are `LD V0,5`; `LD V1,3`; `ADD V0,V1`; with one word of each family, written out
from R78. -/
def Obligations.WordsWrittenFromTheSpecDecode : Prop :=
  decodeBytes [0x60, 0x05, 0x61, 0x03] = .ok (.ldImm 0 5, [0x61, 0x03]) ∧
  decodeBytes [0x61, 0x03] = .ok (.ldImm 1 3, []) ∧ decodeBytes [0x80, 0x14] = .ok (.addReg 0 1, []) ∧
  decode 0x00E0 = .ok .cls ∧ decode 0x2300 = .ok (.call 0x300) ∧ decode 0xA2F0 = .ok (.ldI 0x2F0) ∧
  decode 0xD125 = .ok (.drw 1 2 5) ∧ decode 0xE19E = .ok (.skp 1) ∧ decode 0xF255 = .ok (.storeRegs 2)

/-- R78: there are 34 rows; the decoder gives an instruction exactly for the words that fit a row, the instruction is of
a row the word fits, and no two rows match the same word. -/
def Obligations.DecodingFollowsTheOpcodeMap : Prop :=
  opcodeRows.length = 34 ∧
  (∀ w i, decode w = .ok i → (opcodeRow i).fits w = true ∧ opcodeRow i ∈ opcodeRows) ∧
  (∀ w, (∃ i, decode w = .ok i) ↔ ∃ r ∈ opcodeRows, r.fits w = true) ∧
  (∀ w, ∀ r ∈ opcodeRows, ∀ r' ∈ opcodeRows, r.fits w = true → r'.fits w = true → r = r')

/-- R71, R72, R78: no operand bit of an encoding is dropped. Every instruction is read back from its own word, from its
own bytes with anything after them, and from its table word. -/
def Obligations.DecodeAfterEncodeIsIdentity : Prop :=
  ∀ i : Instr, decode (encode i) = .ok i ∧ (∀ rest, decodeBytes (encodeBytes i ++ rest) = .ok (i, rest)) ∧
    decodeTableWord 16 (encode i).toNat = some i

/-- R80: the decoding of a word depends on the word alone, and each defined word has one meaning: encoding what was decoded
gives the word back. -/
def Obligations.EncodeAfterDecodeIsIdentity : Prop :=
  ∀ w i, decode w = .ok i → encode i = w

/-! ### Reset and the invariant (spec/10_state.md, spec/70_reset_and_hazards.md) -/

/-- R37: the table of reset values, for every value of the parameter `FONT`, so for that of `State.reset` too. -/
def Obligations.ResetStateHoldsTheSpecifiedValues : Prop :=
  ∀ font : Config.Font,
    (∀ r, (State.resetWith font).reg r = 0) ∧ (State.resetWith font).pc = 0x200 ∧ (State.resetWith font).i = 0 ∧
    (State.resetWith font).sp = 0 ∧ (∀ k : Fin 16, (State.resetWith font).stack[k] = 0) ∧
    (∀ k : Fin 80, (State.resetWith font).memory.read k.val = font[k]) ∧
    (∀ a, 80 ≤ a → (State.resetWith font).memory.read a = 0) ∧ (State.resetWith font).keyboard = 0 ∧
    (∀ x y, (State.resetWith font).display.pixel x y = false) ∧ (State.resetWith font).delay = 0 ∧
    (State.resetWith font).sound = 0 ∧ (State.resetWith font).halted = false ∧
    (State.resetWith font).faultCode.bits = 0 ∧ (State.resetWith font).faultWord = 0 ∧
    (State.resetWith font).faultAddr = 0

/-- R200, R34: a `reset` request puts every piece of the core's state at its reset value, whatever it was, latch included,
and opens the program load port again. That the host's waiting requests stay is the model's choice (log entry 8), and so
is that no draw is held (log entry 2). -/
def Obligations.ResetRequestRestoresTheCore : Prop :=
  ∀ s rest, s.pending = .reset :: rest → ∃ t, step s = .next t ∧ SameCore (State.resetWith s.memory.font) t ∧
    t.loadOpen = true ∧ t.randIn = none ∧ t.pending = rest

/-- R38 at reset, whatever the font. -/
def Obligations.InvariantAtReset : Prop := State.reset.Inv ∧ ∀ font, (State.resetWith font).Inv

/-- R38: every step that answers a next state keeps the invariant, from every state that meets it: memory canonical,
`pc` at most `0x10FE`, stacked addresses at most 4096, latch consistent. -/
def Obligations.EveryStepKeepsTheInvariant : Prop :=
  ∀ s t, s.Inv → step s = .next t → t.Inv

/-- No instruction is refused and no step ends in `Host.Outcome.fault`: a step answers a next state unless the next
request is a load that R36 says the host may not make, and then it is refused by name (log entry 7). -/
def Obligations.EveryStepAnswersUnlessTheHostMisusesTheLoadPort : Prop :=
  ∀ s, (∃ t, step s = .next t) ∨
    (∃ a b, s.nextRequest = .load a b ∧ s.loadOpen = false ∧ step s = .refused .loadPortClosed) ∨
    (∃ a b, s.nextRequest = .load a b ∧ s.loadOpen = true ∧ a.toNat < 0x200 ∧ step s = .refused .loadBelowProgram)

/-! ### The CPU cycle (spec/30_encoding.md R73, spec/60_exceptions.md) -/

/-- R73: when the core runs, the next request is a CPU cycle, `pc ≤ 4094` and the big-endian word at `pc`, odd or even,
decodes to `i`, the step is the execute phase of `i` in the state that steps 1 to 3 leave.
Where the host has asked for nothing the next step is a cycle too: the model's choice (log entry 1). -/
def Obligations.StepRunsTheDecodedInstruction : Prop :=
  ∀ s keysIn rnd rest i, s.halted = false → s.NextIsCycle keysIn rnd rest → s.pc.toNat ≤ 4094 →
    decode (s.wordAt s.pc.toNat) = .ok i →
    step s = exec i (s.started keysIn rnd rest (s.wordAt s.pc.toNat))

/-- R76, R172: a word that fits no row changes `pc` and the keyboard sample only and reports `UnknownOpcode` with the word
and its address.
Where the host has asked for nothing the next step is a cycle too: the model's choice (log entry 1). -/
def Obligations.UnknownWordOnlyAdvancesThePc : Prop :=
  ∀ s keysIn rnd rest, s.halted = false → s.NextIsCycle keysIn rnd rest → s.pc.toNat ≤ 4094 →
    (∀ r ∈ opcodeRows, r.fits (s.wordAt s.pc.toNat) = false) →
    ∃ t, step s = .next t ∧ t.pc = s.pc + 2 ∧ t.keyboard = keysIn ∧
      t.statusOut = ⟨.unknownOpcode, s.wordAt s.pc.toNat, s.pc⟩ ∧
      t = { s with
        pc := s.pc + 2, keyboard := keysIn, statusOut := t.statusOut, randIn := rnd, loadOpen := false, pending := rest }

/-- R173: a cycle with `pc > 4094` fetches nothing, leaves `pc`, and latches `FetchOutOfBounds` with word 0 and the
`pc`; and no cycle with `pc ≤ 4094` raises it.
Where the host has asked for nothing the next step is a cycle too: the model's choice (log entry 1). -/
def Obligations.FetchFaultsExactlyAbove4094 : Prop :=
  ∀ s keysIn rnd rest, s.halted = false → s.NextIsCycle keysIn rnd rest →
    (s.pc.toNat > 4094 → ∃ t, step s = .next t ∧ t.halted = true ∧ t.faultCode = .fetchOutOfBounds ∧ t.faultWord = 0 ∧
      t.faultAddr = s.pc ∧ t.statusOut = ⟨.fetchOutOfBounds, 0, s.pc⟩ ∧
      t = { s with
        halted := true, faultCode := t.faultCode, faultWord := 0, faultAddr := s.pc, statusOut := t.statusOut,
        keyboard := keysIn, randIn := rnd, loadOpen := false, pending := rest }) ∧
    (s.pc.toNat ≤ 4094 → ∀ t, step s = .next t → t.statusOut.code ≠ .fetchOutOfBounds)

/-- R170, R171: every cycle of a running core that fetches a word reports it with its address; the code is `OK` for an
instruction that completes and `UnknownOpcode` for a word that decodes to none; a fault's code is the latched one.
Where the host has asked for nothing the next step is a cycle too: the model's choice (log entry 1). -/
def Obligations.EveryCycleReportsItsStatus : Prop :=
  ∀ s keysIn rnd rest t, s.halted = false → s.NextIsCycle keysIn rnd rest → s.pc.toNat ≤ 4094 → step s = .next t →
    t.statusOut.word = s.wordAt s.pc.toNat ∧ t.statusOut.addr = s.pc ∧
    (t.halted = true → t.statusOut.code = t.faultCode) ∧
    (t.halted = false → (∃ i, decode (s.wordAt s.pc.toNat) = .ok i) → t.statusOut.code = .ok) ∧
    ((∀ i, decode (s.wordAt s.pc.toNat) ≠ .ok i) → t.statusOut.code = .unknownOpcode)

/-- R178: faults are precise. Whatever the instruction, a cycle that ends halted has written nothing but the keyboard
sample, the latch and, for a fault of the execute phase, the fetch's `pc + 2`.
Where the host has asked for nothing the next step is a cycle too: the model's choice (log entry 1). -/
def Obligations.FaultsArePrecise : Prop :=
  ∀ s keysIn rnd rest t, s.halted = false → s.NextIsCycle keysIn rnd rest → step s = .next t → t.halted = true →
    ((s.pc.toNat > 4094 ∧ t.faultCode = .fetchOutOfBounds ∧ t.faultWord = 0 ∧ t.pc = s.pc) ∨
      (s.pc.toNat ≤ 4094 ∧ (∃ f : Fault, f ≠ .fetchOutOfBounds ∧ t.faultCode = f.code) ∧
        t.faultWord = s.wordAt s.pc.toNat ∧ t.pc = s.pc + 2)) ∧
    t.faultAddr = s.pc ∧ t.statusOut = ⟨t.faultCode, t.faultWord, t.faultAddr⟩ ∧ t.keyboard = keysIn ∧
    (∀ r, t.reg r = s.reg r) ∧ t.i = s.i ∧ t.sp = s.sp ∧ t.stack = s.stack ∧
    (∀ a, t.memory.read a = s.memory.read a) ∧ t.display = s.display ∧ t.delay = s.delay ∧ t.sound = s.sound

/-- R179: while halted a request for a CPU cycle does nothing: no keyboard sample, no fetch, no state change, `status_out`
unchanged; no request but `reset` clears the latch; `reset` clears everything; and a faulted state is never a final one.
Where the host has asked for nothing the next step is a cycle too: the model's choice (log entry 1). -/
def Obligations.FaultedCoreStaysFaultedUntilReset : Prop :=
  ∀ s : State, s.halted = true →
    (∀ keysIn rnd rest, s.NextIsCycle keysIn rnd rest → ∃ t, step s = .next t ∧ SameCore s t ∧
      t.statusOut = s.statusOut ∧ t.toneTicks = s.toneTicks ∧ t.pending = rest) ∧
    (s.nextRequest ≠ .reset → ∀ t, step s = .next t → t.halted = true ∧ t.faultCode = s.faultCode ∧
      t.faultWord = s.faultWord ∧ t.faultAddr = s.faultAddr ∧ t.statusOut = s.statusOut) ∧
    (s.nextRequest = .reset → ∃ t, step s = .next t ∧ SameCore (State.resetWith s.memory.font) t) ∧
    ¬ s.Finished

/-- R210: once the core is not halted and `pc` is at a self-jump, a CPU cycle executes the jump and changes nothing but the
keyboard sample (and what the ports hold: status, random input, load window).
Where the host has asked for nothing the next step is a cycle too: the model's choice (log entry 1). -/
def Obligations.SelfJumpChangesNothing : Prop :=
  ∀ s keysIn rnd rest, s.Finished → s.NextIsCycle keysIn rnd rest →
    ∃ t, step s = .next t ∧ t.Finished ∧ t.statusOut = ⟨.ok, s.wordAt s.pc.toNat, s.pc⟩ ∧
      t = { s with
        keyboard := keysIn, statusOut := t.statusOut, randIn := rnd, loadOpen := false, pending := rest }

/-! ### Whole-machine rules about what is written (spec/10_state.md) -/

/-- The column "written by" of spec/10_state.md section 1: no instruction writes a part of the state that the table does
not give it. The count of draws is the model's (log entry 2). -/
def Obligations.EveryInstructionWritesOnlyItsParts : Prop :=
  ∀ i s t, exec i s = .next t → Frame (writtenParts i) s t

/-- R21: `VF` changes only under the seven flag-writing instructions or as the destination `X = F`. -/
def Obligations.FlagRegisterWrittenOnlyAsFlagOrDestination : Prop :=
  ∀ i s t, exec i s = .next t → t.reg VF ≠ s.reg VF →
    writesFlag i = true ∨ i ∈ [.ldVxDT VF, .ldVxK VF] ∨ (∃ nn, i ∈ [.ldImm VF nn, .addImm VF nn, .rnd VF nn]) ∨
      (∃ y, i ∈ [.ldReg VF y, .orReg VF y, .andReg VF y, .xorReg VF y])

/-- R23: the complete list of what changes `pc` in the execute phase. -/
def Obligations.PcChangesOnlyAsListed : Prop :=
  ∀ i s t, exec i s = .next t →
    t.pc = s.pc ∨ (∃ nnn, (i = .jp nnn ∨ i = .call nnn) ∧ t.pc = zextAddr nnn) ∨
    (∃ k : Fin 16, i = .ret ∧ s.sp.val = k.val + 1 ∧ t.pc = s.stack[k]) ∨
    (∃ nnn, i = .jpV0 nnn ∧ t.pc = zextAddr nnn + zextByte (s.reg 0)) ∨
    (isSkip i = true ∧ t.pc = s.pc + 2) ∨ (∃ x, i = .ldVxK x ∧ s.keyboard = 0 ∧ t.pc = s.pc - 2)

/-- R25, R26: `sp` changes only by +1 under `2NNN` and by -1 under `00EE`, and a stack entry changes only under a `2NNN`
executed with `sp` equal to its index. -/
def Obligations.StackMovesOnlyByCallAndReturn : Prop :=
  ∀ i s t, exec i s = .next t →
    (t.sp = s.sp ∨ (∃ nnn, i = .call nnn ∧ t.sp.val = s.sp.val + 1) ∨ (i = .ret ∧ t.sp.val + 1 = s.sp.val)) ∧
    (∀ k : Fin 16, t.stack[k] ≠ s.stack[k] → (∃ nnn, i = .call nnn) ∧ s.sp.val = k.val)

/-- R59: memory is written only by `FX33`, at `I, I+1, I+2`, and by `FX55`, at `I .. I+X`. -/
def Obligations.MemoryWrittenOnlyAtListedAddresses : Prop :=
  ∀ i s t a, exec i s = .next t → t.memory.read a ≠ s.memory.read a →
    (∃ x, i = .ldB x ∧ s.ea 0 ≤ a ∧ a ≤ s.ea 2) ∨ (∃ x : RegIdx, i = .storeRegs x ∧ s.ea 0 ≤ a ∧ a ≤ s.ea x.val)

/-! ### Control transfer (spec/40_control_flow.md) -/

/-- R101, R108: `1NNN` sets `pc` to `NNN`; `BNNN` sets it to `NNN + V0`, not reduced to 12 bits. -/
def Obligations.JumpsSetThePc : Prop :=
  ∀ (s : State) (nnn : BitVec 12),
    (∃ t, exec (.jp nnn) s = .next t ∧ t.pc.toNat = nnn.toNat ∧ Frame [.pc] s t) ∧
    (∃ t, exec (.jpV0 nnn) s = .next t ∧ t.pc.toNat = nnn.toNat + (s.reg 0).toNat ∧ Frame [.pc] s t)

/-- R102, R175: `2NNN` pushes the address after the call, adds 1 to `sp` and jumps; with 16 addresses held it raises
`StackOverflow`.
`Raised` takes the word and the address from `statusOut`, where the fetch put them: the model's choice (log entry 19). -/
def Obligations.CallPushesTheReturnAddress : Prop :=
  ∀ (s : State) (nnn : BitVec 12),
    (∀ k : Fin 16, s.sp.val = k.val → ∃ t, exec (.call nnn) s = .next t ∧ t.stack[k] = s.pc ∧
      (∀ j : Fin 16, j ≠ k → t.stack[j] = s.stack[j]) ∧ t.sp.val = k.val + 1 ∧ t.pc.toNat = nnn.toNat ∧
      Frame [.pc, .stack] s t) ∧
    (s.sp = 16 → ∃ t, exec (.call nnn) s = .next t ∧ Raised .stackOverflow s t)

/-- R100, R176: `00EE` subtracts 1 from `sp` and takes `pc` from the entry then at `sp`, which stays in the stack; with
nothing held it raises `StackUnderflow`.
`Raised` takes the word and the address from `statusOut`, where the fetch put them: the model's choice (log entry 19). -/
def Obligations.ReturnPopsTheReturnAddress : Prop :=
  ∀ s : State,
    (∀ k : Fin 16, s.sp.val = k.val + 1 → ∃ t, exec .ret s = .next t ∧ t.pc = s.stack[k] ∧ t.sp.val = k.val ∧
      t.stack = s.stack ∧ Frame [.pc, .stack] s t) ∧
    (s.sp = 0 → ∃ t, exec .ret s = .next t ∧ Raised .stackUnderflow s t)

/-- R100: a `2NNN` call followed by `00EE` restores `pc` to the address after the call and `sp` to its value before it, if
what ran in between left `sp` and the stack as the call left them. -/
def Obligations.ReturnUndoesCall : Prop :=
  ∀ (s : State) (nnn : BitVec 12) (t u : State), s.sp.val < 16 → exec (.call nnn) s = .next t → u.sp = t.sp → u.stack = t.stack →
    ∃ r, exec .ret u = .next r ∧ r.pc = s.pc ∧ r.sp = s.sp

/-- R103 to R107: the four compare-and-skip instructions add 2 to `pc` when their condition holds, else change nothing. -/
def Obligations.CompareSkips : Prop :=
  ∀ (s : State) (x y : RegIdx) (nn : Byte),
    (∃ t, exec (.seImm x nn) s = .next t ∧ t.pc = (if s.reg x = nn then s.pc + 2 else s.pc) ∧ Frame [.pc] s t) ∧
    (∃ t, exec (.sneImm x nn) s = .next t ∧ t.pc = (if s.reg x = nn then s.pc else s.pc + 2) ∧ Frame [.pc] s t) ∧
    (∃ t, exec (.seReg x y) s = .next t ∧ t.pc = (if s.reg x = s.reg y then s.pc + 2 else s.pc) ∧ Frame [.pc] s t) ∧
    (∃ t, exec (.sneReg x y) s = .next t ∧ t.pc = (if s.reg x = s.reg y then s.pc else s.pc + 2) ∧ Frame [.pc] s t)

/-! ### Register load, arithmetic, logic, shifts, random (spec/41_alu.md) -/

/-- R110 to R115: loads, the flagless add and the three logic operations write `VX` and nothing else, `VF` included. -/
def Obligations.LoadAddAndLogicResults : Prop :=
  ∀ (s : State) (x y : RegIdx) (nn : Byte),
    (∃ t, exec (.ldImm x nn) s = .next t ∧ t.reg x = nn ∧ Frame [.reg x] s t) ∧
    (∃ t, exec (.addImm x nn) s = .next t ∧ (t.reg x).toNat = ((s.reg x).toNat + nn.toNat) % 256 ∧
      Frame [.reg x] s t) ∧
    (∃ t, exec (.ldReg x y) s = .next t ∧ t.reg x = s.reg y ∧ Frame [.reg x] s t) ∧
    (∃ t, exec (.orReg x y) s = .next t ∧ t.reg x = s.reg x ||| s.reg y ∧ Frame [.reg x] s t) ∧
    (∃ t, exec (.andReg x y) s = .next t ∧ t.reg x = s.reg x &&& s.reg y ∧ Frame [.reg x] s t) ∧
    (∃ t, exec (.xorReg x y) s = .next t ∧ t.reg x = s.reg x ^^^ s.reg y ∧ Frame [.reg x] s t)

/-- R116 and its row of R124: `8XY4` writes the sum mod 256 to `VX` and, when `X` is not `F`, the carry to `VF`; both
registers are read first, so the sum is of the old values for every `X` and `Y`.
The forms that name `VF` follow the statement order (R123), a reading taken in log entry 11. -/
def Obligations.AddSetsTheCarry : Prop :=
  ∀ (s : State) (x y : RegIdx), ∃ t, exec (.addReg x y) s = .next t ∧
    (t.reg x).toNat = ((s.reg x).toNat + (s.reg y).toNat) % 256 ∧
    (x ≠ VF → t.reg VF = if (s.reg x).toNat + (s.reg y).toNat > 255 then 1 else 0) ∧ Frame [.reg x, .reg VF] s t

/-- R117 and its row of R124, all four columns: `8XY5` sets `VF` to `[VX > VY]` and then subtracts what the registers hold
after that write.
The forms that name `VF` follow the statement order (R123), a reading taken in log entry 11. -/
def Obligations.SubtractSetsStrictlyGreater : Prop :=
  ∀ (s : State) (x y : RegIdx), ∃ t, exec (.sub x y) s = .next t ∧ Frame [.reg x, .reg VF] s t ∧
    (x ≠ VF → y ≠ VF → t.reg x = s.reg x - s.reg y ∧ t.reg VF = if s.reg x > s.reg y then 1 else 0) ∧
    (x ≠ VF → y = VF → t.reg x = s.reg x - (if s.reg x > s.reg VF then 1 else 0) ∧
      t.reg VF = if s.reg x > s.reg VF then 1 else 0) ∧
    (x = VF → y ≠ VF → t.reg VF = (if s.reg VF > s.reg y then 1 else 0) - s.reg y) ∧
    (x = VF → y = VF → t.reg VF = 0)

/-- R119 and its row of R124, all four columns: `8XY7` sets `VF` to `[VY > VX]` and then subtracts the other way round.
The forms that name `VF` follow the statement order (R123), a reading taken in log entry 11. -/
def Obligations.ReverseSubtractSetsStrictlyGreater : Prop :=
  ∀ (s : State) (x y : RegIdx), ∃ t, exec (.subn x y) s = .next t ∧ Frame [.reg x, .reg VF] s t ∧
    (x ≠ VF → y ≠ VF → t.reg x = s.reg y - s.reg x ∧ t.reg VF = if s.reg y > s.reg x then 1 else 0) ∧
    (x ≠ VF → y = VF → t.reg x = (if s.reg VF > s.reg x then 1 else 0) - s.reg x ∧
      t.reg VF = if s.reg VF > s.reg x then 1 else 0) ∧
    (x = VF → y ≠ VF → t.reg VF = s.reg y - (if s.reg y > s.reg VF then 1 else 0)) ∧
    (x = VF → y = VF → t.reg VF = 0)

/-- R118, R120 and their rows of R124: shifts by one put the bit shifted out into `VF`; with `X = F` the result wins. `Y` is
never read.
The forms that name `VF` follow the statement order (R123), a reading taken in log entry 11. -/
def Obligations.ShiftsPutTheLostBitIntoTheFlag : Prop :=
  ∀ (s : State) (x y : RegIdx),
    (∃ t, exec (.shr x y) s = .next t ∧ (∀ y', exec (.shr x y') s = .next t) ∧ Frame [.reg x, .reg VF] s t ∧
      (x ≠ VF → (t.reg x).toNat = (s.reg x).toNat / 2 ∧ (t.reg VF).toNat = (s.reg x).toNat % 2) ∧
      (x = VF → t.reg VF = 0)) ∧
    (∃ t, exec (.shl x y) s = .next t ∧ (∀ y', exec (.shl x y') s = .next t) ∧ Frame [.reg x, .reg VF] s t ∧
      (x ≠ VF → (t.reg x).toNat = (s.reg x).toNat * 2 % 256 ∧ (t.reg VF).toNat = (s.reg x).toNat / 128) ∧
      (x = VF → (t.reg VF).toNat = 2 * ((s.reg VF).toNat / 128)))

/-- R121: `CXNN` writes the draw AND `NN`. The draw is what the host presented, else a free value (log entry 2) of which
only the range `[0, 250)` is known, so with `NN = 0xFF` the values 250 to 255 never appear. -/
def Obligations.RandomMasksADrawBelow250 : Prop :=
  ∀ (s : State) (x : RegIdx) (nn : Byte), ∃ t, exec (.rnd x nn) s = .next t ∧ Frame [.reg x, .draws] s t ∧
    (∃ rnd, rnd < 250 ∧ (∀ r, s.randIn = some r → rnd = r.val) ∧ t.reg x = BitVec.ofNat 8 rnd &&& nn) ∧
    (nn = 0xFF → (t.reg x).toNat < 250) ∧ (nn = 0 → t.reg x = 0)

/-! ### Index register and memory transfer (spec/42_index_memory.md) -/

/-- R130, R132: `ANNN` sets `I` to `NNN`; `FX29` sets it to five times the whole byte `VX`. -/
def Obligations.IndexLoads : Prop :=
  ∀ (s : State) (nnn : BitVec 12) (x : RegIdx),
    (∃ t, exec (.ldI nnn) s = .next t ∧ t.i.toNat = nnn.toNat ∧ Frame [.index] s t) ∧
    (∃ t, exec (.ldF x) s = .next t ∧ t.i.toNat = (s.reg x).toNat * 5 ∧ Frame [.index] s t)

/-- R131: `FX1E` sets `VF` to `[I + VX > 0xFFF]`, then adds `VX`, read again, to `I` mod 65536; so with `X = F` it is the
new flag that is added.
The statement order is log entry 11, the reduction mod 65536 log entry 12: both are readings the spec makes. -/
def Obligations.AddToIndexFlagsOverflow : Prop :=
  ∀ (s : State) (x : RegIdx), ∃ t, exec (.addI x) s = .next t ∧ Frame [.index, .reg VF] s t ∧
    t.reg VF = (if s.i.toNat + (s.reg x).toNat > 0xFFF then 1 else 0) ∧
    (x ≠ VF → t.i.toNat = (s.i.toNat + (s.reg x).toNat) % 65536) ∧
    (x = VF → t.i.toNat = (s.i.toNat + (t.reg VF).toNat) % 65536)

/-- R133: `FX33` stores the three decimal digits of `VX` at `I`, `I+1`, `I+2`, hundreds first, leaves every other byte and
`I` alone, and raises `MemoryOutOfBounds` when `I + 2 > 4095`.
`Raised` takes the word and the address from `statusOut`, where the fetch put them: the model's choice (log entry 19). -/
def Obligations.DecimalStoreWritesThreeDigits : Prop :=
  ∀ (s : State) (x : RegIdx),
    (s.ea 2 ≤ 4095 → ∃ t, exec (.ldB x) s = .next t ∧ Frame [.memory] s t ∧
      (t.memory.read (s.ea 0)).toNat = (s.reg x).toNat / 100 ∧
      (t.memory.read (s.ea 1)).toNat = (s.reg x).toNat / 10 % 10 ∧
      (t.memory.read (s.ea 2)).toNat = (s.reg x).toNat % 10 ∧
      (∀ a, a < s.ea 0 ∨ s.ea 2 < a → t.memory.read a = s.memory.read a)) ∧
    (s.ea 2 > 4095 → ∃ t, exec (.ldB x) s = .next t ∧ Raised .memoryOutOfBounds s t)

/-- R134: `FX55` stores `V0..VX` at `I..I+X`, leaves every other byte alone and adds `X + 1` to `I`; it raises
`MemoryOutOfBounds` when `I + X > 4095`.
`Raised` takes the word and the address from `statusOut`, where the fetch put them: the model's choice (log entry 19). -/
def Obligations.RegisterStoreWritesThroughX : Prop :=
  ∀ (s : State) (x : RegIdx),
    (s.ea x.val ≤ 4095 → ∃ t, exec (.storeRegs x) s = .next t ∧ Frame [.memory, .index] s t ∧
      (∀ r : RegIdx, r ≤ x → t.memory.read (s.ea r.val) = s.reg r) ∧
      (∀ a, a < s.ea 0 ∨ s.ea x.val < a → t.memory.read a = s.memory.read a) ∧
      t.i.toNat = (s.i.toNat + x.val + 1) % 65536) ∧
    (s.ea x.val > 4095 → ∃ t, exec (.storeRegs x) s = .next t ∧ Raised .memoryOutOfBounds s t)

/-- R135: `FX65` loads `V0..V(X-1)` from `I` up and nothing else, neither `VX` nor `I`; with `X ≥ 1` it raises
`MemoryOutOfBounds` when `I + X - 1 > 4095`; with `X = 0` it does nothing whatever `I` holds. That `I` stays is log entry 13.
`Raised` takes the word and the address from `statusOut`, where the fetch put them: the model's choice (log entry 19). -/
def Obligations.RegisterLoadStopsBeforeX : Prop :=
  ∀ (s : State) (x : RegIdx),
    ((x = 0 ∨ s.ea x.val - 1 ≤ 4095) → ∃ t, exec (.loadRegs x) s = .next t ∧
      (∀ r : RegIdx, t.reg r = if r < x then s.memory.read (s.ea r.val) else s.reg r) ∧
      Frame (((List.finRange 16).filter (· < x)).map .reg) s t) ∧
    (x ≠ 0 → s.ea x.val - 1 > 4095 → ∃ t, exec (.loadRegs x) s = .next t ∧ Raised .memoryOutOfBounds s t)

/-- R136: `FX55`, then `FX65` with the same `X` and the same `I` from any registers, restores `V0..V(X-1)` exactly and leaves
`VX` as it was put in between.
That `FX65` leaves `I` is R135 with log entry 13. -/
def Obligations.LoadAfterStoreRestoresAllButTheLast : Prop :=
  ∀ (s : State) (x : RegIdx) (t u : State), s.ea x.val ≤ 4095 → exec (.storeRegs x) s = .next t → u.memory = t.memory → u.i = s.i →
    ∃ w, exec (.loadRegs x) u = .next w ∧ (∀ r : RegIdx, r < x → w.reg r = s.reg r) ∧ w.reg x = u.reg x ∧ w.i = s.i

/-- R58, R64: a store is seen by a later fetch from a stored address, with the byte of the lower-numbered register as the
high byte of the word: for every `X` and every two neighbouring registers up to `VX`. -/
def Obligations.StoredRegistersAreFetchedBigEndian : Prop :=
  ∀ (s : State) (x r q : RegIdx) (t u : State), s.ea x.val ≤ 4095 → q.val = r.val + 1 → q ≤ x →
    exec (.storeRegs x) s = .next t → u.memory = t.memory → u.pc.toNat = s.ea r.val →
    u.fetchWord = some (wordOfBytes (s.reg r) (s.reg q))

/-! ### Display, keyboard, timers (spec/43_display.md, spec/44_keyboard.md, spec/45_timers.md) -/

/-- R140: `00E0` puts every cell to 0 and touches nothing outside the display. -/
def Obligations.ClearTurnsEveryCellOff : Prop :=
  ∀ s : State, ∃ t, exec .cls s = .next t ∧ (∀ x y, t.display.pixel x y = false) ∧ Frame [.display] s t

/-- R141: `DXYN` flips exactly the cells under the set bits of the sprite, drawn from `(VX mod 64, VY mod 32)` and clipped,
and sets `VF` to whether one of them was on; with `N ≥ 1` it raises `MemoryOutOfBounds` when `I + N - 1 > 4095`. That both
coordinates are read before the flag is written is the spec's reading, taken in log entry 11.
`Raised` takes the word and the address from `statusOut`, where the fetch put them: the model's choice (log entry 19). -/
def Obligations.DrawFlipsTheSpriteAndReportsCollision : Prop :=
  ∀ (s : State) (x y : RegIdx) (n : Fin 16),
    ((n = 0 ∨ s.ea n.val - 1 ≤ 4095) → ∃ t, exec (.drw x y n) s = .next t ∧ Frame [.display, .reg VF] s t ∧
      (∀ cx cy, t.display.pixel cx cy = (s.display.pixel cx cy ^^
        spriteCovers s.memory (s.ea 0) n.val ((s.reg x).toNat % 64) ((s.reg y).toNat % 32) cx cy)) ∧
      (t.reg VF = 0 ∨ t.reg VF = 1) ∧
      (t.reg VF = 1 ↔ ∃ cx cy, s.display.pixel cx cy = true ∧
        spriteCovers s.memory (s.ea 0) n.val ((s.reg x).toNat % 64) ((s.reg y).toNat % 32) cx cy = true)) ∧
    (n ≠ 0 → s.ea n.val - 1 > 4095 → ∃ t, exec (.drw x y n) s = .next t ∧ Raised .memoryOutOfBounds s t)

/-- R150, R151, R153, R177: the key skips test the level of key `VX`; `VX > 15` raises `KeyIndexOutOfRange`.
`Raised` takes the word and the address from `statusOut`, where the fetch put them: the model's choice (log entry 19). -/
def Obligations.KeySkipsTestTheLevel : Prop :=
  ∀ (s : State) (x : RegIdx),
    ((s.reg x).toNat ≤ 15 →
      (∃ t, exec (.skp x) s = .next t ∧ Frame [.pc] s t ∧
        t.pc = if s.keyboard.getLsbD (s.reg x).toNat then s.pc + 2 else s.pc) ∧
      (∃ t, exec (.sknp x) s = .next t ∧ Frame [.pc] s t ∧
        t.pc = if s.keyboard.getLsbD (s.reg x).toNat then s.pc else s.pc + 2)) ∧
    ((s.reg x).toNat > 15 →
      (∃ t, exec (.skp x) s = .next t ∧ Raised .keyIndexOutOfRange s t) ∧
      (∃ t, exec (.sknp x) s = .next t ∧ Raised .keyIndexOutOfRange s t))

/-- R152: `FX0A` stores the least pressed key; with none pressed it sets `pc` back by 2 and changes nothing else. -/
def Obligations.KeyWaitTakesTheLowestKeyOrRewinds : Prop :=
  ∀ (s : State) (x : RegIdx),
    (∀ k : Fin 16, s.keyboard.getLsbD k.val = true → (∀ j, j < k → s.keyboard.getLsbD j.val = false) →
      ∃ t, exec (.ldVxK x) s = .next t ∧ (t.reg x).toNat = k.val ∧ Frame [.reg x] s t) ∧
    ((∀ k : Fin 16, s.keyboard.getLsbD k.val = false) →
      ∃ t, exec (.ldVxK x) s = .next t ∧ t.pc = s.pc - 2 ∧ Frame [.pc] s t)

/-- R160 to R162: `FX07` reads `delay`, `FX15` and `FX18` set `delay` and `sound`; none emits a tone tick. -/
def Obligations.TimerInstructions : Prop :=
  ∀ (s : State) (x : RegIdx),
    (∃ t, exec (.ldVxDT x) s = .next t ∧ t.reg x = s.delay ∧ Frame [.reg x] s t) ∧
    (∃ t, exec (.ldDTVx x) s = .next t ∧ t.delay = s.reg x ∧ Frame [.delay] s t) ∧
    (∃ t, exec (.ldSTVx x) s = .next t ∧ t.sound = s.reg x ∧ Frame [.sound] s t)

/-- R186, R187, R189: a timer tick takes 1 from each counter that is above 0, emits a tone tick exactly when it found
`sound > 0`, and touches nothing else, halted or not.
The tone ticks are held as a count (log entry 6). -/
def Obligations.TimerTickCountsDown : Prop :=
  ∀ s rest, s.pending = .timerTick :: rest → ∃ t, step s = .next t ∧
    t.delay.toNat = s.delay.toNat - 1 ∧ t.sound.toNat = s.sound.toNat - 1 ∧
    t.toneTicks = s.toneTicks + (if s.sound.toNat > 0 then 1 else 0) ∧
    t = { s with delay := t.delay, sound := t.sound, toneTicks := t.toneTicks, pending := rest }

/-- R162, R186: over `n` timer ticks each counter falls by `n` and stops at 0, and there are as many tone ticks as `sound`
allows: `FX18` of `n` gives exactly `n` tone ticks over the next `n` ticks.
The tone ticks are held as a count (log entry 6). -/
def Obligations.TicksRunTheCountersDown : Prop :=
  ∀ n s rest, s.pending = List.replicate n .timerTick ++ rest → ∃ t, core.run n s = .next t ∧
    t.delay.toNat = s.delay.toNat - n ∧ t.sound.toNat = s.sound.toNat - n ∧
    t.toneTicks = s.toneTicks + min n s.sound.toNat ∧
    t = { s with delay := t.delay, sound := t.sound, toneTicks := t.toneTicks, pending := rest }

/-- R65: an `FX15`, then a tick, then an `FX07` read the written value minus 1, when that value was above 0. -/
def Obligations.DelayReadAfterOneTick : Prop :=
  ∀ (s : State) (x y : RegIdx) (t u : State), exec (.ldDTVx x) s = .next t → s.reg x ≠ 0 →
    exec (.ldVxDT y) t.timerTick = .next u → (u.reg y).toNat + 1 = (s.reg x).toNat

/-- R186, R207: a timer tick and a CPU cycle may come in either order with the same result, unless the instruction is one of
`FX07 FX15 FX18`: the tick reads and writes the two counters only. -/
def Obligations.TickAndCycleCommute : Prop :=
  ∀ (s : State) keysIn rnd rest, (∀ i, decode (s.wordAt s.pc.toNat) = .ok i → usesTimers i = false) →
    ∃ ticked cycled t,
      step { s with pending := .timerTick :: .cpuCycle keysIn rnd :: rest } = .next ticked ∧ step ticked = .next t ∧
      step { s with pending := .cpuCycle keysIn rnd :: .timerTick :: rest } = .next cycled ∧ step cycled = .next t

/-! ### The program load port (spec/70_reset_and_hazards.md R202) -/

/-- R202: byte `k` of the image stands at `0x200 + k`, at most 3584 bytes of it, and every other location and the rest of
the state is as reset leaves it, whatever the font. `State.boot` is the model's name for that state (log entry 14). -/
def Obligations.BootPlacesTheImage : Prop :=
  ∀ (font : Config.Font) (image : List Byte) (a : Nat),
    (State.boot font image).memory.read a =
      (if 0x200 ≤ a ∧ a < 0x200 + min image.length 3584 then image.getD (a - 0x200) 0
        else (State.resetWith font).memory.read a) ∧
    Frame [.memory] (State.resetWith font) (State.boot font image) ∧ (State.boot font image).memory.wf = true

/-- R34, R202: served one by one from reset, the load requests of an image that fits lead to the boot state with nothing left
to serve. -/
def Obligations.LoadRequestsReachTheBootState : Prop :=
  ∀ (font : Config.Font) (image : List Byte), imageWellFormed image = true →
    core.run image.length { State.resetWith font with pending := loadRequestsFrom programBase image } =
      .next (State.boot font image)

/-- R34: while the load window is open, a load request for an address from `0x200` up writes exactly that byte and changes
nothing else, the window included. -/
def Obligations.LoadRequestWritesExactlyOneByte : Prop :=
  ∀ (s : State) (addr : BitVec 12) (data : Byte) (rest : List Request),
    s.pending = .load addr data :: rest → s.loadOpen = true → 0x200 ≤ addr.toNat →
    ∃ t, step s = .next t ∧ t.memory.read addr.toNat = data ∧
      (∀ a, a ≠ addr.toNat → t.memory.read a = s.memory.read a) ∧ t.memory.font = s.memory.font ∧
      t = { s with memory := t.memory, pending := rest }

/-! ### Whole runs -/

/-- R7: the font table is a parameter: no step of any kind changes it, a reset or a store over the font included. That it is
held inside `memory` is log entry 4. -/
def Obligations.EveryStepKeepsTheFontParameter : Prop :=
  ∀ s t, step s = .next t → t.memory.font = s.memory.font

/-- R207, R210: from the end of a program on, whatever CPU cycles and timer ticks the driver still asks for, in any order and
number, the state stays final, with the registers, `I`, memory, the display, the stack and `sp` that it had. -/
def Obligations.FinalStateStandsUnderEveryInterleaving : Prop :=
  ∀ s : State, s.Finished → (∀ r ∈ s.pending, (∃ keysIn rnd, r = .cpuCycle keysIn rnd) ∨ r = .timerTick) →
    ∃ t, core.run s.pending.length s = .next t ∧ t.Finished ∧ t.pending = [] ∧ (∀ r, t.reg r = s.reg r) ∧ t.pc = s.pc ∧
      t.i = s.i ∧ t.memory = s.memory ∧ t.display = s.display ∧ t.stack = s.stack ∧ t.sp = s.sp
end

