-- ==== Sys2Proof/Laws/Decode.lean ====
section
/-! SUPPORT. The fields of a word as numbers, and the words of the formats as numbers (spec/30_encoding.md R71, R72), so that
no proof about decoding unfolds a bit slice: what remains is linear arithmetic. -/

namespace Sys2Proof

@[simp] theorem toFin_nibble (x : Fin 16) : (nibble x).toFin = x := rfl

@[simp] theorem nibble_toFin (b : BitVec 4) : nibble b.toFin = b := rfl

@[simp] theorem nibble_toNat (x : Fin 16) : (nibble x).toNat = x.val := rfl

/-! ### Fields (R71) -/

theorem fieldF_toNat (w : Word) : (fieldF w).toNat = w.toNat / 4096 := by
  have := w.isLt
  simp [fieldF, Nat.shiftRight_eq_div_pow]; omega

theorem fieldX_val (w : Word) : (fieldX w).val = w.toNat / 256 % 16 := by
  simp [fieldX, Nat.shiftRight_eq_div_pow]

theorem fieldY_val (w : Word) : (fieldY w).val = w.toNat / 16 % 16 := by
  simp [fieldY, Nat.shiftRight_eq_div_pow]

theorem fieldN_toNat (w : Word) : (fieldN w).toNat = w.toNat % 16 := by
  simp [fieldN]

theorem fieldNN_toNat (w : Word) : (fieldNN w).toNat = w.toNat % 256 := by
  simp [fieldNN]

theorem fieldNNN_toNat (w : Word) : (fieldNNN w).toNat = w.toNat % 4096 := by
  simp [fieldNNN]

theorem hiByte_toNat (w : Word) : (hiByte w).toNat = w.toNat / 256 := by
  have := w.isLt
  simp [hiByte, Nat.shiftRight_eq_div_pow]; omega

theorem loByte_toNat (w : Word) : (loByte w).toNat = w.toNat % 256 := by
  simp [loByte]

/-! ### Words (R58, R72) -/

theorem append_toNat {n m : Nat} (a : BitVec n) (b : BitVec m) : (a ++ b).toNat = a.toNat * 2 ^ m + b.toNat := by
  rw [BitVec.toNat_append, ← Nat.shiftLeft_add_eq_or_of_lt b.isLt, Nat.shiftLeft_eq]

theorem wordOfBytes_toNat (hi lo : Byte) : (wordOfBytes hi lo).toNat = hi.toNat * 256 + lo.toNat :=
  append_toNat hi lo

theorem encodeNNN_toNat (f : BitVec 4) (nnn : BitVec 12) : (encodeNNN f nnn).toNat = f.toNat * 4096 + nnn.toNat :=
  append_toNat f nnn

theorem encodeXNN_toNat (f : BitVec 4) (x : RegIdx) (nn : Byte) :
    (encodeXNN f x nn).toNat = (f.toNat * 16 + x.val) * 256 + nn.toNat := by
  have h : (f ++ nibble x : BitVec 8).toNat = f.toNat * 16 + x.val := append_toNat f (nibble x)
  have h' : (encodeXNN f x nn).toNat = (f ++ nibble x : BitVec 8).toNat * 256 + nn.toNat := append_toNat _ nn
  rw [h', h]

theorem encodeXYN_toNat (f : BitVec 4) (x y : RegIdx) (n : BitVec 4) :
    (encodeXYN f x y n).toNat = (f.toNat * 16 + x.val) * 256 + (y.val * 16 + n.toNat) := by
  have h : (f ++ nibble x : BitVec 8).toNat = f.toNat * 16 + x.val := append_toNat f (nibble x)
  have h' : (nibble y ++ n : BitVec 8).toNat = y.val * 16 + n.toNat := append_toNat (nibble y) n
  have h'' : (encodeXYN f x y n).toNat =
      (f ++ nibble x : BitVec 8).toNat * 256 + (nibble y ++ n : BitVec 8).toNat := append_toNat _ _
  rw [h'', h, h']

/-! ### The fields of an assembled word -/

@[simp] theorem wordOfBytes_hi_lo (w : Word) : wordOfBytes (hiByte w) (loByte w) = w := by
  apply BitVec.eq_of_toNat_eq
  rw [wordOfBytes_toNat, hiByte_toNat, loByte_toNat]; omega

@[simp] theorem fieldF_encodeNNN (f : BitVec 4) (nnn : BitVec 12) : fieldF (encodeNNN f nnn) = f := by
  have := nnn.isLt
  apply BitVec.eq_of_toNat_eq; rw [fieldF_toNat, encodeNNN_toNat]; omega

@[simp] theorem fieldNNN_encodeNNN (f : BitVec 4) (nnn : BitVec 12) : fieldNNN (encodeNNN f nnn) = nnn := by
  have := nnn.isLt
  apply BitVec.eq_of_toNat_eq; rw [fieldNNN_toNat, encodeNNN_toNat]; omega

@[simp] theorem fieldF_encodeXNN (f : BitVec 4) (x : RegIdx) (nn : Byte) : fieldF (encodeXNN f x nn) = f := by
  have := nn.isLt
  apply BitVec.eq_of_toNat_eq; rw [fieldF_toNat, encodeXNN_toNat]; omega

@[simp] theorem fieldX_encodeXNN (f : BitVec 4) (x : RegIdx) (nn : Byte) : fieldX (encodeXNN f x nn) = x := by
  have := nn.isLt
  apply Fin.ext; rw [fieldX_val, encodeXNN_toNat]; omega

@[simp] theorem fieldNN_encodeXNN (f : BitVec 4) (x : RegIdx) (nn : Byte) : fieldNN (encodeXNN f x nn) = nn := by
  have := nn.isLt
  apply BitVec.eq_of_toNat_eq; rw [fieldNN_toNat, encodeXNN_toNat]; omega

@[simp] theorem fieldF_encodeXYN (f : BitVec 4) (x y : RegIdx) (n : BitVec 4) : fieldF (encodeXYN f x y n) = f := by
  have := n.isLt
  apply BitVec.eq_of_toNat_eq; rw [fieldF_toNat, encodeXYN_toNat]; omega

@[simp] theorem fieldX_encodeXYN (f : BitVec 4) (x y : RegIdx) (n : BitVec 4) : fieldX (encodeXYN f x y n) = x := by
  have := n.isLt
  apply Fin.ext; rw [fieldX_val, encodeXYN_toNat]; omega

@[simp] theorem fieldY_encodeXYN (f : BitVec 4) (x y : RegIdx) (n : BitVec 4) : fieldY (encodeXYN f x y n) = y := by
  have := n.isLt
  apply Fin.ext; rw [fieldY_val, encodeXYN_toNat]; omega

@[simp] theorem fieldN_encodeXYN (f : BitVec 4) (x y : RegIdx) (n : BitVec 4) : fieldN (encodeXYN f x y n) = n := by
  have := n.isLt
  apply BitVec.eq_of_toNat_eq; rw [fieldN_toNat, encodeXYN_toNat]; omega

/-! ### A word is assembled from its fields -/

theorem encodeNNN_fields (w : Word) : encodeNNN (fieldF w) (fieldNNN w) = w := by
  apply BitVec.eq_of_toNat_eq; rw [encodeNNN_toNat, fieldF_toNat, fieldNNN_toNat]; omega

theorem encodeXNN_fields (w : Word) : encodeXNN (fieldF w) (fieldX w) (fieldNN w) = w := by
  apply BitVec.eq_of_toNat_eq; rw [encodeXNN_toNat, fieldF_toNat, fieldX_val, fieldNN_toNat]; omega

theorem encodeXYN_fields (w : Word) : encodeXYN (fieldF w) (fieldX w) (fieldY w) (fieldN w) = w := by
  apply BitVec.eq_of_toNat_eq; rw [encodeXYN_toNat, fieldF_toNat, fieldX_val, fieldY_val, fieldN_toNat]; omega

/-! ### The three masks of R72: what is left of a word is its fixed fields -/

theorem and_F000 (w : Word) : w &&& 0xF000#16 = encodeNNN (fieldF w) 0 := by
  apply BitVec.eq_of_getLsbD_eq
  intro k hk
  rw [show (encodeNNN (fieldF w) 0).getLsbD k = (fieldF w ++ 0#12).getLsbD k from rfl, BitVec.getLsbD_append,
    BitVec.getLsbD_and]
  interval_cases k <;> simp [fieldF]

theorem and_F0FF (w : Word) : w &&& 0xF0FF#16 = encodeXNN (fieldF w) 0 (fieldNN w) := by
  apply BitVec.eq_of_getLsbD_eq
  intro k hk
  rw [show (encodeXNN (fieldF w) 0 (fieldNN w)).getLsbD k = ((fieldF w ++ 0#4) ++ fieldNN w).getLsbD k from rfl,
    BitVec.getLsbD_append, BitVec.getLsbD_append, BitVec.getLsbD_and]
  interval_cases k <;> simp [fieldF, fieldNN]

theorem and_F00F (w : Word) : w &&& 0xF00F#16 = encodeXYN (fieldF w) 0 0 (fieldN w) := by
  apply BitVec.eq_of_getLsbD_eq
  intro k hk
  rw [show (encodeXYN (fieldF w) 0 0 (fieldN w)).getLsbD k = ((fieldF w ++ 0#4) ++ (0#4 ++ fieldN w)).getLsbD k from rfl,
    BitVec.getLsbD_append, BitVec.getLsbD_append, BitVec.getLsbD_append, BitVec.getLsbD_and]
  interval_cases k <;> simp [fieldF, fieldN]

end Sys2Proof
end

