-- ==== Sys2Proof/Laws/Display.lean ====
section
/-! SUPPORT. What a sprite does to the cells: the canvas after any part of the drawing is the display it began with, XOR
the cells covered so far, and the collision says whether a covered cell was on. -/

namespace Sys2Proof.Machine

theorem Display.pixel_flip (d : Display) (x y cx cy : Nat) (hx : x ≤ 63) (hy : y ≤ 31) :
    (d.flip x y).pixel cx cy = (d.pixel cx cy ^^ decide (cx = x ∧ cy = y)) := by
  have hy' : y < 32 := by omega
  simp only [Display.flip, hy', dif_pos, Display.pixel]
  by_cases h : cy = y
  · subst h
    simp [hy']
    by_cases h2 : x = cx
    · subst h2; simp; omega
    · simp [h2, Ne.symm h2]
  · have : y ≠ cy := fun e => h e.symm
    by_cases h3 : cy < 32
    · simp [this, h, h3]
    · simp [h3, h]

/-- The canvas `c` is `d0` with the cells of `cov` flipped, and tells whether one of them was on. -/
structure Covers (d0 : Display) (cov : Nat → Nat → Bool) (c : Canvas) : Prop where
  pixel : ∀ x y, c.1.pixel x y = (d0.pixel x y ^^ cov x y)
  hit : c.2 = true ↔ ∃ x y, d0.pixel x y = true ∧ cov x y = true

theorem plotBit_covers {d0 : Display} {cov : Nat → Nat → Bool} {c : Canvas} (h : Covers d0 cov c) (lit : Bool) (x y : Nat)
    (hn : cov x y = false) :
    Covers d0
      (fun cx cy => cov cx cy || (lit && decide (y ≤ 31) && decide (x ≤ 63) && decide (cx = x ∧ cy = y)))
      (plotBit lit x y c) := by
  unfold plotBit
  by_cases hc : (lit && decide (y ≤ 31) && decide (x ≤ 63)) = true
  · simp only [hc, if_true, Bool.true_and]
    simp at hc
    constructor
    · intro cx cy
      rw [Display.pixel_flip _ _ _ _ _ hc.2 hc.1.2, h.pixel]
      by_cases e : cx = x ∧ cy = y
      · obtain ⟨rfl, rfl⟩ := e; simp [hn]
      · simp [e]
    · simp only [Bool.or_eq_true, h.hit, h.pixel, hn]
      constructor
      · rintro (⟨a, b, p, q⟩ | p)
        · exact ⟨a, b, p, .inl q⟩
        · exact ⟨x, y, by simpa using p, .inr (by simp)⟩
      · rintro ⟨a, b, p, q | q⟩
        · exact .inl ⟨a, b, p, q⟩
        · simp at q; obtain ⟨rfl, rfl⟩ := q; right; simpa using p
  · simp only [hc, Bool.false_and, Bool.or_false]
    simpa using h

theorem plotRow_covers {d0 : Display} {cov : Nat → Nat → Bool} {c : Canvas} (h : Covers d0 cov c) (b : Byte) (x0 y : Nat)
    (hn : ∀ x, cov x y = false) :
    Covers d0
      (fun cx cy => cov cx cy || (decide (y ≤ 31) && decide (cx ≤ 63) && decide (cy = y) && decide (x0 ≤ cx) &&
        decide (cx < x0 + 8) && b.getLsbD (7 - (cx - x0))))
      (plotRow b x0 y c) := by
  have key : ∀ n, n ≤ 8 → Covers d0
      (fun cx cy => cov cx cy || (decide (y ≤ 31) && decide (cx ≤ 63) && decide (cy = y) && decide (x0 ≤ cx) &&
        decide (cx < x0 + n) && b.getLsbD (7 - (cx - x0))))
      ((List.range n).foldl (fun c k => plotBit (b.getLsbD (7 - k)) (x0 + k) y c) c) := by
    intro n
    induction n with
    | zero =>
      intro _
      have e : (fun cx cy => cov cx cy || (decide (y ≤ 31) && decide (cx ≤ 63) && decide (cy = y) && decide (x0 ≤ cx) &&
          decide (cx < x0 + 0) && b.getLsbD (7 - (cx - x0)))) = cov := by
        funext cx cy
        by_cases h1 : x0 ≤ cx
        · simp [show ¬ cx < x0 by omega]
        · simp [h1]
      rw [e]
      exact h
    | succ n ih =>
      intro hn8
      rw [List.range_succ, List.foldl_append]
      have h2 := plotBit_covers (ih (by omega)) (b.getLsbD (7 - n)) (x0 + n) y (by simp [hn])
      simp only [List.foldl_cons, List.foldl_nil]
      convert h2 using 1
      funext cx cy
      by_cases e : cx = x0 + n
      · subst e
        by_cases e2 : cy = y
        · subst e2; simp [hn]; cases b.getLsbD (7 - n) <;> simp
        · simp [e2]
      · simp [e, show cx < x0 + (n + 1) ↔ cx < x0 + n by omega]
  exact key 8 (le_refl _)

theorem plotSprite_covers (d0 : Display) (m : Memory) (base n x0 y0 : Nat) :
    Covers d0 (spriteCovers m base n x0 y0) (plotSprite m base n x0 y0 (d0, false)) := by
  unfold plotSprite
  induction n with
  | zero =>
    have none (x y : Nat) : spriteCovers m base 0 x0 y0 x y = false := by
      by_cases h : y0 ≤ y
      · simp [spriteCovers, show ¬ y < y0 by omega]
      · simp [spriteCovers, h]
    constructor <;> simp [none]
  | succ n ih =>
    rw [List.range_succ, List.foldl_append]
    have h2 := plotRow_covers ih (m.read (base + n)) x0 (y0 + n) (by intro x; simp [spriteCovers])
    simp only [List.foldl_cons, List.foldl_nil]
    convert h2 using 1
    funext cx cy
    unfold spriteCovers
    by_cases e : cy = y0 + n
    · subst e
      simp
      by_cases a1 : cx ≤ 63 <;> by_cases a2 : y0 + n ≤ 31 <;> by_cases a3 : x0 ≤ cx <;> by_cases a4 : cx < x0 + 8 <;>
        simp [a1, a2, a3, a4]
    · simp [e, show cy < y0 + (n + 1) ↔ cy < y0 + n by omega]

end Sys2Proof.Machine
end

