-- ==== Sys2Proof/Laws/State.lean ====
section
/-! SUPPORT. One lemma per field per named update of State, each true by rfl, so that no later proof unfolds a record
update; and the registers after a register write. -/

namespace Sys2Proof.Machine

variable (s : State)

/-! ### `setV` -/

@[simp] theorem State.setV_v (x : RegIdx) (b : Byte) : (s.setV x b).v = s.v.set x b := rfl
@[simp] theorem State.setV_pc (x : RegIdx) (b : Byte) : (s.setV x b).pc = s.pc := rfl
@[simp] theorem State.setV_i (x : RegIdx) (b : Byte) : (s.setV x b).i = s.i := rfl
@[simp] theorem State.setV_sp (x : RegIdx) (b : Byte) : (s.setV x b).sp = s.sp := rfl
@[simp] theorem State.setV_stack (x : RegIdx) (b : Byte) : (s.setV x b).stack = s.stack := rfl
@[simp] theorem State.setV_memory (x : RegIdx) (b : Byte) : (s.setV x b).memory = s.memory := rfl
@[simp] theorem State.setV_keyboard (x : RegIdx) (b : Byte) : (s.setV x b).keyboard = s.keyboard := rfl
@[simp] theorem State.setV_display (x : RegIdx) (b : Byte) : (s.setV x b).display = s.display := rfl
@[simp] theorem State.setV_delay (x : RegIdx) (b : Byte) : (s.setV x b).delay = s.delay := rfl
@[simp] theorem State.setV_sound (x : RegIdx) (b : Byte) : (s.setV x b).sound = s.sound := rfl
@[simp] theorem State.setV_halted (x : RegIdx) (b : Byte) : (s.setV x b).halted = s.halted := rfl
@[simp] theorem State.setV_faultCode (x : RegIdx) (b : Byte) : (s.setV x b).faultCode = s.faultCode := rfl
@[simp] theorem State.setV_faultWord (x : RegIdx) (b : Byte) : (s.setV x b).faultWord = s.faultWord := rfl
@[simp] theorem State.setV_faultAddr (x : RegIdx) (b : Byte) : (s.setV x b).faultAddr = s.faultAddr := rfl
@[simp] theorem State.setV_statusOut (x : RegIdx) (b : Byte) : (s.setV x b).statusOut = s.statusOut := rfl
@[simp] theorem State.setV_toneTicks (x : RegIdx) (b : Byte) : (s.setV x b).toneTicks = s.toneTicks := rfl
@[simp] theorem State.setV_loadOpen (x : RegIdx) (b : Byte) : (s.setV x b).loadOpen = s.loadOpen := rfl
@[simp] theorem State.setV_randIn (x : RegIdx) (b : Byte) : (s.setV x b).randIn = s.randIn := rfl
@[simp] theorem State.setV_draws (x : RegIdx) (b : Byte) : (s.setV x b).draws = s.draws := rfl
@[simp] theorem State.setV_pending (x : RegIdx) (b : Byte) : (s.setV x b).pending = s.pending := rfl

/-! ### `setPc` -/

@[simp] theorem State.setPc_v (a : Word) : (s.setPc a).v = s.v := rfl
@[simp] theorem State.setPc_pc (a : Word) : (s.setPc a).pc = a := rfl
@[simp] theorem State.setPc_i (a : Word) : (s.setPc a).i = s.i := rfl
@[simp] theorem State.setPc_sp (a : Word) : (s.setPc a).sp = s.sp := rfl
@[simp] theorem State.setPc_stack (a : Word) : (s.setPc a).stack = s.stack := rfl
@[simp] theorem State.setPc_memory (a : Word) : (s.setPc a).memory = s.memory := rfl
@[simp] theorem State.setPc_keyboard (a : Word) : (s.setPc a).keyboard = s.keyboard := rfl
@[simp] theorem State.setPc_display (a : Word) : (s.setPc a).display = s.display := rfl
@[simp] theorem State.setPc_delay (a : Word) : (s.setPc a).delay = s.delay := rfl
@[simp] theorem State.setPc_sound (a : Word) : (s.setPc a).sound = s.sound := rfl
@[simp] theorem State.setPc_halted (a : Word) : (s.setPc a).halted = s.halted := rfl
@[simp] theorem State.setPc_faultCode (a : Word) : (s.setPc a).faultCode = s.faultCode := rfl
@[simp] theorem State.setPc_faultWord (a : Word) : (s.setPc a).faultWord = s.faultWord := rfl
@[simp] theorem State.setPc_faultAddr (a : Word) : (s.setPc a).faultAddr = s.faultAddr := rfl
@[simp] theorem State.setPc_statusOut (a : Word) : (s.setPc a).statusOut = s.statusOut := rfl
@[simp] theorem State.setPc_toneTicks (a : Word) : (s.setPc a).toneTicks = s.toneTicks := rfl
@[simp] theorem State.setPc_loadOpen (a : Word) : (s.setPc a).loadOpen = s.loadOpen := rfl
@[simp] theorem State.setPc_randIn (a : Word) : (s.setPc a).randIn = s.randIn := rfl
@[simp] theorem State.setPc_draws (a : Word) : (s.setPc a).draws = s.draws := rfl
@[simp] theorem State.setPc_pending (a : Word) : (s.setPc a).pending = s.pending := rfl

/-! ### `setI` -/

@[simp] theorem State.setI_v (a : Word) : (s.setI a).v = s.v := rfl
@[simp] theorem State.setI_pc (a : Word) : (s.setI a).pc = s.pc := rfl
@[simp] theorem State.setI_i (a : Word) : (s.setI a).i = a := rfl
@[simp] theorem State.setI_sp (a : Word) : (s.setI a).sp = s.sp := rfl
@[simp] theorem State.setI_stack (a : Word) : (s.setI a).stack = s.stack := rfl
@[simp] theorem State.setI_memory (a : Word) : (s.setI a).memory = s.memory := rfl
@[simp] theorem State.setI_keyboard (a : Word) : (s.setI a).keyboard = s.keyboard := rfl
@[simp] theorem State.setI_display (a : Word) : (s.setI a).display = s.display := rfl
@[simp] theorem State.setI_delay (a : Word) : (s.setI a).delay = s.delay := rfl
@[simp] theorem State.setI_sound (a : Word) : (s.setI a).sound = s.sound := rfl
@[simp] theorem State.setI_halted (a : Word) : (s.setI a).halted = s.halted := rfl
@[simp] theorem State.setI_faultCode (a : Word) : (s.setI a).faultCode = s.faultCode := rfl
@[simp] theorem State.setI_faultWord (a : Word) : (s.setI a).faultWord = s.faultWord := rfl
@[simp] theorem State.setI_faultAddr (a : Word) : (s.setI a).faultAddr = s.faultAddr := rfl
@[simp] theorem State.setI_statusOut (a : Word) : (s.setI a).statusOut = s.statusOut := rfl
@[simp] theorem State.setI_toneTicks (a : Word) : (s.setI a).toneTicks = s.toneTicks := rfl
@[simp] theorem State.setI_loadOpen (a : Word) : (s.setI a).loadOpen = s.loadOpen := rfl
@[simp] theorem State.setI_randIn (a : Word) : (s.setI a).randIn = s.randIn := rfl
@[simp] theorem State.setI_draws (a : Word) : (s.setI a).draws = s.draws := rfl
@[simp] theorem State.setI_pending (a : Word) : (s.setI a).pending = s.pending := rfl

/-! ### `setMemory` -/

@[simp] theorem State.setMemory_v (m : Memory) : (s.setMemory m).v = s.v := rfl
@[simp] theorem State.setMemory_pc (m : Memory) : (s.setMemory m).pc = s.pc := rfl
@[simp] theorem State.setMemory_i (m : Memory) : (s.setMemory m).i = s.i := rfl
@[simp] theorem State.setMemory_sp (m : Memory) : (s.setMemory m).sp = s.sp := rfl
@[simp] theorem State.setMemory_stack (m : Memory) : (s.setMemory m).stack = s.stack := rfl
@[simp] theorem State.setMemory_memory (m : Memory) : (s.setMemory m).memory = m := rfl
@[simp] theorem State.setMemory_keyboard (m : Memory) : (s.setMemory m).keyboard = s.keyboard := rfl
@[simp] theorem State.setMemory_display (m : Memory) : (s.setMemory m).display = s.display := rfl
@[simp] theorem State.setMemory_delay (m : Memory) : (s.setMemory m).delay = s.delay := rfl
@[simp] theorem State.setMemory_sound (m : Memory) : (s.setMemory m).sound = s.sound := rfl
@[simp] theorem State.setMemory_halted (m : Memory) : (s.setMemory m).halted = s.halted := rfl
@[simp] theorem State.setMemory_faultCode (m : Memory) : (s.setMemory m).faultCode = s.faultCode := rfl
@[simp] theorem State.setMemory_faultWord (m : Memory) : (s.setMemory m).faultWord = s.faultWord := rfl
@[simp] theorem State.setMemory_faultAddr (m : Memory) : (s.setMemory m).faultAddr = s.faultAddr := rfl
@[simp] theorem State.setMemory_statusOut (m : Memory) : (s.setMemory m).statusOut = s.statusOut := rfl
@[simp] theorem State.setMemory_toneTicks (m : Memory) : (s.setMemory m).toneTicks = s.toneTicks := rfl
@[simp] theorem State.setMemory_loadOpen (m : Memory) : (s.setMemory m).loadOpen = s.loadOpen := rfl
@[simp] theorem State.setMemory_randIn (m : Memory) : (s.setMemory m).randIn = s.randIn := rfl
@[simp] theorem State.setMemory_draws (m : Memory) : (s.setMemory m).draws = s.draws := rfl
@[simp] theorem State.setMemory_pending (m : Memory) : (s.setMemory m).pending = s.pending := rfl

/-! ### `setDisplay` -/

@[simp] theorem State.setDisplay_v (d : Display) : (s.setDisplay d).v = s.v := rfl
@[simp] theorem State.setDisplay_pc (d : Display) : (s.setDisplay d).pc = s.pc := rfl
@[simp] theorem State.setDisplay_i (d : Display) : (s.setDisplay d).i = s.i := rfl
@[simp] theorem State.setDisplay_sp (d : Display) : (s.setDisplay d).sp = s.sp := rfl
@[simp] theorem State.setDisplay_stack (d : Display) : (s.setDisplay d).stack = s.stack := rfl
@[simp] theorem State.setDisplay_memory (d : Display) : (s.setDisplay d).memory = s.memory := rfl
@[simp] theorem State.setDisplay_keyboard (d : Display) : (s.setDisplay d).keyboard = s.keyboard := rfl
@[simp] theorem State.setDisplay_display (d : Display) : (s.setDisplay d).display = d := rfl
@[simp] theorem State.setDisplay_delay (d : Display) : (s.setDisplay d).delay = s.delay := rfl
@[simp] theorem State.setDisplay_sound (d : Display) : (s.setDisplay d).sound = s.sound := rfl
@[simp] theorem State.setDisplay_halted (d : Display) : (s.setDisplay d).halted = s.halted := rfl
@[simp] theorem State.setDisplay_faultCode (d : Display) : (s.setDisplay d).faultCode = s.faultCode := rfl
@[simp] theorem State.setDisplay_faultWord (d : Display) : (s.setDisplay d).faultWord = s.faultWord := rfl
@[simp] theorem State.setDisplay_faultAddr (d : Display) : (s.setDisplay d).faultAddr = s.faultAddr := rfl
@[simp] theorem State.setDisplay_statusOut (d : Display) : (s.setDisplay d).statusOut = s.statusOut := rfl
@[simp] theorem State.setDisplay_toneTicks (d : Display) : (s.setDisplay d).toneTicks = s.toneTicks := rfl
@[simp] theorem State.setDisplay_loadOpen (d : Display) : (s.setDisplay d).loadOpen = s.loadOpen := rfl
@[simp] theorem State.setDisplay_randIn (d : Display) : (s.setDisplay d).randIn = s.randIn := rfl
@[simp] theorem State.setDisplay_draws (d : Display) : (s.setDisplay d).draws = s.draws := rfl
@[simp] theorem State.setDisplay_pending (d : Display) : (s.setDisplay d).pending = s.pending := rfl

/-! ### `setDelay` -/

@[simp] theorem State.setDelay_v (b : Byte) : (s.setDelay b).v = s.v := rfl
@[simp] theorem State.setDelay_pc (b : Byte) : (s.setDelay b).pc = s.pc := rfl
@[simp] theorem State.setDelay_i (b : Byte) : (s.setDelay b).i = s.i := rfl
@[simp] theorem State.setDelay_sp (b : Byte) : (s.setDelay b).sp = s.sp := rfl
@[simp] theorem State.setDelay_stack (b : Byte) : (s.setDelay b).stack = s.stack := rfl
@[simp] theorem State.setDelay_memory (b : Byte) : (s.setDelay b).memory = s.memory := rfl
@[simp] theorem State.setDelay_keyboard (b : Byte) : (s.setDelay b).keyboard = s.keyboard := rfl
@[simp] theorem State.setDelay_display (b : Byte) : (s.setDelay b).display = s.display := rfl
@[simp] theorem State.setDelay_delay (b : Byte) : (s.setDelay b).delay = b := rfl
@[simp] theorem State.setDelay_sound (b : Byte) : (s.setDelay b).sound = s.sound := rfl
@[simp] theorem State.setDelay_halted (b : Byte) : (s.setDelay b).halted = s.halted := rfl
@[simp] theorem State.setDelay_faultCode (b : Byte) : (s.setDelay b).faultCode = s.faultCode := rfl
@[simp] theorem State.setDelay_faultWord (b : Byte) : (s.setDelay b).faultWord = s.faultWord := rfl
@[simp] theorem State.setDelay_faultAddr (b : Byte) : (s.setDelay b).faultAddr = s.faultAddr := rfl
@[simp] theorem State.setDelay_statusOut (b : Byte) : (s.setDelay b).statusOut = s.statusOut := rfl
@[simp] theorem State.setDelay_toneTicks (b : Byte) : (s.setDelay b).toneTicks = s.toneTicks := rfl
@[simp] theorem State.setDelay_loadOpen (b : Byte) : (s.setDelay b).loadOpen = s.loadOpen := rfl
@[simp] theorem State.setDelay_randIn (b : Byte) : (s.setDelay b).randIn = s.randIn := rfl
@[simp] theorem State.setDelay_draws (b : Byte) : (s.setDelay b).draws = s.draws := rfl
@[simp] theorem State.setDelay_pending (b : Byte) : (s.setDelay b).pending = s.pending := rfl

/-! ### `setSound` -/

@[simp] theorem State.setSound_v (b : Byte) : (s.setSound b).v = s.v := rfl
@[simp] theorem State.setSound_pc (b : Byte) : (s.setSound b).pc = s.pc := rfl
@[simp] theorem State.setSound_i (b : Byte) : (s.setSound b).i = s.i := rfl
@[simp] theorem State.setSound_sp (b : Byte) : (s.setSound b).sp = s.sp := rfl
@[simp] theorem State.setSound_stack (b : Byte) : (s.setSound b).stack = s.stack := rfl
@[simp] theorem State.setSound_memory (b : Byte) : (s.setSound b).memory = s.memory := rfl
@[simp] theorem State.setSound_keyboard (b : Byte) : (s.setSound b).keyboard = s.keyboard := rfl
@[simp] theorem State.setSound_display (b : Byte) : (s.setSound b).display = s.display := rfl
@[simp] theorem State.setSound_delay (b : Byte) : (s.setSound b).delay = s.delay := rfl
@[simp] theorem State.setSound_sound (b : Byte) : (s.setSound b).sound = b := rfl
@[simp] theorem State.setSound_halted (b : Byte) : (s.setSound b).halted = s.halted := rfl
@[simp] theorem State.setSound_faultCode (b : Byte) : (s.setSound b).faultCode = s.faultCode := rfl
@[simp] theorem State.setSound_faultWord (b : Byte) : (s.setSound b).faultWord = s.faultWord := rfl
@[simp] theorem State.setSound_faultAddr (b : Byte) : (s.setSound b).faultAddr = s.faultAddr := rfl
@[simp] theorem State.setSound_statusOut (b : Byte) : (s.setSound b).statusOut = s.statusOut := rfl
@[simp] theorem State.setSound_toneTicks (b : Byte) : (s.setSound b).toneTicks = s.toneTicks := rfl
@[simp] theorem State.setSound_loadOpen (b : Byte) : (s.setSound b).loadOpen = s.loadOpen := rfl
@[simp] theorem State.setSound_randIn (b : Byte) : (s.setSound b).randIn = s.randIn := rfl
@[simp] theorem State.setSound_draws (b : Byte) : (s.setSound b).draws = s.draws := rfl
@[simp] theorem State.setSound_pending (b : Byte) : (s.setSound b).pending = s.pending := rfl

/-! ### `latchFault` -/

@[simp] theorem State.latchFault_v (f : Fault) (w a : Word) : (s.latchFault f w a).v = s.v := rfl
@[simp] theorem State.latchFault_pc (f : Fault) (w a : Word) : (s.latchFault f w a).pc = s.pc := rfl
@[simp] theorem State.latchFault_i (f : Fault) (w a : Word) : (s.latchFault f w a).i = s.i := rfl
@[simp] theorem State.latchFault_sp (f : Fault) (w a : Word) : (s.latchFault f w a).sp = s.sp := rfl
@[simp] theorem State.latchFault_stack (f : Fault) (w a : Word) : (s.latchFault f w a).stack = s.stack := rfl
@[simp] theorem State.latchFault_memory (f : Fault) (w a : Word) : (s.latchFault f w a).memory = s.memory := rfl
@[simp] theorem State.latchFault_keyboard (f : Fault) (w a : Word) : (s.latchFault f w a).keyboard = s.keyboard := rfl
@[simp] theorem State.latchFault_display (f : Fault) (w a : Word) : (s.latchFault f w a).display = s.display := rfl
@[simp] theorem State.latchFault_delay (f : Fault) (w a : Word) : (s.latchFault f w a).delay = s.delay := rfl
@[simp] theorem State.latchFault_sound (f : Fault) (w a : Word) : (s.latchFault f w a).sound = s.sound := rfl
@[simp] theorem State.latchFault_halted (f : Fault) (w a : Word) : (s.latchFault f w a).halted = true := rfl
@[simp] theorem State.latchFault_faultCode (f : Fault) (w a : Word) : (s.latchFault f w a).faultCode = f.code := rfl
@[simp] theorem State.latchFault_faultWord (f : Fault) (w a : Word) : (s.latchFault f w a).faultWord = w := rfl
@[simp] theorem State.latchFault_faultAddr (f : Fault) (w a : Word) : (s.latchFault f w a).faultAddr = a := rfl
@[simp] theorem State.latchFault_statusOut (f : Fault) (w a : Word) : (s.latchFault f w a).statusOut = ⟨f.code, w, a⟩ := rfl
@[simp] theorem State.latchFault_toneTicks (f : Fault) (w a : Word) : (s.latchFault f w a).toneTicks = s.toneTicks := rfl
@[simp] theorem State.latchFault_loadOpen (f : Fault) (w a : Word) : (s.latchFault f w a).loadOpen = s.loadOpen := rfl
@[simp] theorem State.latchFault_randIn (f : Fault) (w a : Word) : (s.latchFault f w a).randIn = s.randIn := rfl
@[simp] theorem State.latchFault_draws (f : Fault) (w a : Word) : (s.latchFault f w a).draws = s.draws := rfl
@[simp] theorem State.latchFault_pending (f : Fault) (w a : Word) : (s.latchFault f w a).pending = s.pending := rfl

/-! ### `sampleInputs` -/

@[simp] theorem State.sampleInputs_v (k : BitVec 16) (r : Option (Fin Config.randMod)) : (s.sampleInputs k r).v = s.v := rfl
@[simp] theorem State.sampleInputs_pc (k : BitVec 16) (r : Option (Fin Config.randMod)) : (s.sampleInputs k r).pc = s.pc := rfl
@[simp] theorem State.sampleInputs_i (k : BitVec 16) (r : Option (Fin Config.randMod)) : (s.sampleInputs k r).i = s.i := rfl
@[simp] theorem State.sampleInputs_sp (k : BitVec 16) (r : Option (Fin Config.randMod)) : (s.sampleInputs k r).sp = s.sp := rfl
@[simp] theorem State.sampleInputs_stack (k : BitVec 16) (r : Option (Fin Config.randMod)) : (s.sampleInputs k r).stack = s.stack := rfl
@[simp] theorem State.sampleInputs_memory (k : BitVec 16) (r : Option (Fin Config.randMod)) : (s.sampleInputs k r).memory = s.memory := rfl
@[simp] theorem State.sampleInputs_keyboard (k : BitVec 16) (r : Option (Fin Config.randMod)) : (s.sampleInputs k r).keyboard = k := rfl
@[simp] theorem State.sampleInputs_display (k : BitVec 16) (r : Option (Fin Config.randMod)) : (s.sampleInputs k r).display = s.display := rfl
@[simp] theorem State.sampleInputs_delay (k : BitVec 16) (r : Option (Fin Config.randMod)) : (s.sampleInputs k r).delay = s.delay := rfl
@[simp] theorem State.sampleInputs_sound (k : BitVec 16) (r : Option (Fin Config.randMod)) : (s.sampleInputs k r).sound = s.sound := rfl
@[simp] theorem State.sampleInputs_halted (k : BitVec 16) (r : Option (Fin Config.randMod)) : (s.sampleInputs k r).halted = s.halted := rfl
@[simp] theorem State.sampleInputs_faultCode (k : BitVec 16) (r : Option (Fin Config.randMod)) : (s.sampleInputs k r).faultCode = s.faultCode := rfl
@[simp] theorem State.sampleInputs_faultWord (k : BitVec 16) (r : Option (Fin Config.randMod)) : (s.sampleInputs k r).faultWord = s.faultWord := rfl
@[simp] theorem State.sampleInputs_faultAddr (k : BitVec 16) (r : Option (Fin Config.randMod)) : (s.sampleInputs k r).faultAddr = s.faultAddr := rfl
@[simp] theorem State.sampleInputs_statusOut (k : BitVec 16) (r : Option (Fin Config.randMod)) : (s.sampleInputs k r).statusOut = s.statusOut := rfl
@[simp] theorem State.sampleInputs_toneTicks (k : BitVec 16) (r : Option (Fin Config.randMod)) : (s.sampleInputs k r).toneTicks = s.toneTicks := rfl
@[simp] theorem State.sampleInputs_loadOpen (k : BitVec 16) (r : Option (Fin Config.randMod)) : (s.sampleInputs k r).loadOpen = false := rfl
@[simp] theorem State.sampleInputs_randIn (k : BitVec 16) (r : Option (Fin Config.randMod)) : (s.sampleInputs k r).randIn = r := rfl
@[simp] theorem State.sampleInputs_draws (k : BitVec 16) (r : Option (Fin Config.randMod)) : (s.sampleInputs k r).draws = s.draws := rfl
@[simp] theorem State.sampleInputs_pending (k : BitVec 16) (r : Option (Fin Config.randMod)) : (s.sampleInputs k r).pending = s.pending := rfl

/-! ### `beginInstr` -/

@[simp] theorem State.beginInstr_v (w : Word) : (s.beginInstr w).v = s.v := rfl
@[simp] theorem State.beginInstr_pc (w : Word) : (s.beginInstr w).pc = s.pc + 2 := rfl
@[simp] theorem State.beginInstr_i (w : Word) : (s.beginInstr w).i = s.i := rfl
@[simp] theorem State.beginInstr_sp (w : Word) : (s.beginInstr w).sp = s.sp := rfl
@[simp] theorem State.beginInstr_stack (w : Word) : (s.beginInstr w).stack = s.stack := rfl
@[simp] theorem State.beginInstr_memory (w : Word) : (s.beginInstr w).memory = s.memory := rfl
@[simp] theorem State.beginInstr_keyboard (w : Word) : (s.beginInstr w).keyboard = s.keyboard := rfl
@[simp] theorem State.beginInstr_display (w : Word) : (s.beginInstr w).display = s.display := rfl
@[simp] theorem State.beginInstr_delay (w : Word) : (s.beginInstr w).delay = s.delay := rfl
@[simp] theorem State.beginInstr_sound (w : Word) : (s.beginInstr w).sound = s.sound := rfl
@[simp] theorem State.beginInstr_halted (w : Word) : (s.beginInstr w).halted = s.halted := rfl
@[simp] theorem State.beginInstr_faultCode (w : Word) : (s.beginInstr w).faultCode = s.faultCode := rfl
@[simp] theorem State.beginInstr_faultWord (w : Word) : (s.beginInstr w).faultWord = s.faultWord := rfl
@[simp] theorem State.beginInstr_faultAddr (w : Word) : (s.beginInstr w).faultAddr = s.faultAddr := rfl
@[simp] theorem State.beginInstr_statusOut (w : Word) : (s.beginInstr w).statusOut = ⟨.ok, w, s.pc⟩ := rfl
@[simp] theorem State.beginInstr_toneTicks (w : Word) : (s.beginInstr w).toneTicks = s.toneTicks := rfl
@[simp] theorem State.beginInstr_loadOpen (w : Word) : (s.beginInstr w).loadOpen = s.loadOpen := rfl
@[simp] theorem State.beginInstr_randIn (w : Word) : (s.beginInstr w).randIn = s.randIn := rfl
@[simp] theorem State.beginInstr_draws (w : Word) : (s.beginInstr w).draws = s.draws := rfl
@[simp] theorem State.beginInstr_pending (w : Word) : (s.beginInstr w).pending = s.pending := rfl

/-! ### `unknownOpcode` -/

@[simp] theorem State.unknownOpcode_v : (s.unknownOpcode).v = s.v := rfl
@[simp] theorem State.unknownOpcode_pc : (s.unknownOpcode).pc = s.pc := rfl
@[simp] theorem State.unknownOpcode_i : (s.unknownOpcode).i = s.i := rfl
@[simp] theorem State.unknownOpcode_sp : (s.unknownOpcode).sp = s.sp := rfl
@[simp] theorem State.unknownOpcode_stack : (s.unknownOpcode).stack = s.stack := rfl
@[simp] theorem State.unknownOpcode_memory : (s.unknownOpcode).memory = s.memory := rfl
@[simp] theorem State.unknownOpcode_keyboard : (s.unknownOpcode).keyboard = s.keyboard := rfl
@[simp] theorem State.unknownOpcode_display : (s.unknownOpcode).display = s.display := rfl
@[simp] theorem State.unknownOpcode_delay : (s.unknownOpcode).delay = s.delay := rfl
@[simp] theorem State.unknownOpcode_sound : (s.unknownOpcode).sound = s.sound := rfl
@[simp] theorem State.unknownOpcode_halted : (s.unknownOpcode).halted = s.halted := rfl
@[simp] theorem State.unknownOpcode_faultCode : (s.unknownOpcode).faultCode = s.faultCode := rfl
@[simp] theorem State.unknownOpcode_faultWord : (s.unknownOpcode).faultWord = s.faultWord := rfl
@[simp] theorem State.unknownOpcode_faultAddr : (s.unknownOpcode).faultAddr = s.faultAddr := rfl
@[simp] theorem State.unknownOpcode_statusOut : (s.unknownOpcode).statusOut = ⟨.unknownOpcode, s.statusOut.word, s.statusOut.addr⟩ := rfl
@[simp] theorem State.unknownOpcode_toneTicks : (s.unknownOpcode).toneTicks = s.toneTicks := rfl
@[simp] theorem State.unknownOpcode_loadOpen : (s.unknownOpcode).loadOpen = s.loadOpen := rfl
@[simp] theorem State.unknownOpcode_randIn : (s.unknownOpcode).randIn = s.randIn := rfl
@[simp] theorem State.unknownOpcode_draws : (s.unknownOpcode).draws = s.draws := rfl
@[simp] theorem State.unknownOpcode_pending : (s.unknownOpcode).pending = s.pending := rfl

/-! ### `timerTick` -/

@[simp] theorem State.timerTick_v : (s.timerTick).v = s.v := rfl
@[simp] theorem State.timerTick_pc : (s.timerTick).pc = s.pc := rfl
@[simp] theorem State.timerTick_i : (s.timerTick).i = s.i := rfl
@[simp] theorem State.timerTick_sp : (s.timerTick).sp = s.sp := rfl
@[simp] theorem State.timerTick_stack : (s.timerTick).stack = s.stack := rfl
@[simp] theorem State.timerTick_memory : (s.timerTick).memory = s.memory := rfl
@[simp] theorem State.timerTick_keyboard : (s.timerTick).keyboard = s.keyboard := rfl
@[simp] theorem State.timerTick_display : (s.timerTick).display = s.display := rfl
@[simp] theorem State.timerTick_delay : (s.timerTick).delay = countDown s.delay := rfl
@[simp] theorem State.timerTick_sound : (s.timerTick).sound = countDown s.sound := rfl
@[simp] theorem State.timerTick_halted : (s.timerTick).halted = s.halted := rfl
@[simp] theorem State.timerTick_faultCode : (s.timerTick).faultCode = s.faultCode := rfl
@[simp] theorem State.timerTick_faultWord : (s.timerTick).faultWord = s.faultWord := rfl
@[simp] theorem State.timerTick_faultAddr : (s.timerTick).faultAddr = s.faultAddr := rfl
@[simp] theorem State.timerTick_statusOut : (s.timerTick).statusOut = s.statusOut := rfl
@[simp] theorem State.timerTick_toneTicks : (s.timerTick).toneTicks = if s.sound = 0 then s.toneTicks else s.toneTicks + 1 := rfl
@[simp] theorem State.timerTick_loadOpen : (s.timerTick).loadOpen = s.loadOpen := rfl
@[simp] theorem State.timerTick_randIn : (s.timerTick).randIn = s.randIn := rfl
@[simp] theorem State.timerTick_draws : (s.timerTick).draws = s.draws := rfl
@[simp] theorem State.timerTick_pending : (s.timerTick).pending = s.pending := rfl

/-! ### `popRequest` -/

@[simp] theorem State.popRequest_v : (s.popRequest).v = s.v := rfl
@[simp] theorem State.popRequest_pc : (s.popRequest).pc = s.pc := rfl
@[simp] theorem State.popRequest_i : (s.popRequest).i = s.i := rfl
@[simp] theorem State.popRequest_sp : (s.popRequest).sp = s.sp := rfl
@[simp] theorem State.popRequest_stack : (s.popRequest).stack = s.stack := rfl
@[simp] theorem State.popRequest_memory : (s.popRequest).memory = s.memory := rfl
@[simp] theorem State.popRequest_keyboard : (s.popRequest).keyboard = s.keyboard := rfl
@[simp] theorem State.popRequest_display : (s.popRequest).display = s.display := rfl
@[simp] theorem State.popRequest_delay : (s.popRequest).delay = s.delay := rfl
@[simp] theorem State.popRequest_sound : (s.popRequest).sound = s.sound := rfl
@[simp] theorem State.popRequest_halted : (s.popRequest).halted = s.halted := rfl
@[simp] theorem State.popRequest_faultCode : (s.popRequest).faultCode = s.faultCode := rfl
@[simp] theorem State.popRequest_faultWord : (s.popRequest).faultWord = s.faultWord := rfl
@[simp] theorem State.popRequest_faultAddr : (s.popRequest).faultAddr = s.faultAddr := rfl
@[simp] theorem State.popRequest_statusOut : (s.popRequest).statusOut = s.statusOut := rfl
@[simp] theorem State.popRequest_toneTicks : (s.popRequest).toneTicks = s.toneTicks := rfl
@[simp] theorem State.popRequest_loadOpen : (s.popRequest).loadOpen = s.loadOpen := rfl
@[simp] theorem State.popRequest_randIn : (s.popRequest).randIn = s.randIn := rfl
@[simp] theorem State.popRequest_draws : (s.popRequest).draws = s.draws := rfl
@[simp] theorem State.popRequest_pending : (s.popRequest).pending = s.pending.tail := rfl

/-! ### Registers -/

theorem State.reg_eq (r : RegIdx) : s.reg r = s.v[r] := rfl

@[simp] theorem State.reg_setV_same (x : RegIdx) (b : Byte) : (s.setV x b).reg x = b := by
  simp [State.reg]

theorem State.reg_setV_ne (b : Byte) {x r : RegIdx} (h : r ≠ x) : (s.setV x b).reg r = s.reg r := by
  have : x.val ≠ r.val := fun e => h (Fin.ext e.symm)
  simp [State.reg, this]

theorem State.reg_setV (x r : RegIdx) (b : Byte) : (s.setV x b).reg r = if r = x then b else s.reg r := by
  split
  · next h => subst h; simp
  · next h => exact s.reg_setV_ne b h

/-- The registers depend on the register file alone. -/
theorem State.reg_congr {s t : State} (h : t.v = s.v) (r : RegIdx) : t.reg r = s.reg r := by
  simp [State.reg, h]

end Sys2Proof.Machine
end

