-- ==== Sys2Proof/Laws/Frame.lean ====
section
/-! SUPPORT. How frames combine, the frame of each named update, and that latching a fault is what `Raised` says. -/

namespace Sys2Proof.Machine

theorem Frame.refl (l : List Part) (s : State) : Frame l s s := by
  constructor <;> simp

theorem Frame.trans {l : List Part} {s t u : State} (h : Frame l s t) (h' : Frame l t u) : Frame l s u where
  regs r hr := (h'.regs r hr).trans (h.regs r hr)
  pc hr := (h'.pc hr).trans (h.pc hr)
  index hr := (h'.index hr).trans (h.index hr)
  stack hr := ⟨(h'.stack hr).1.trans (h.stack hr).1, (h'.stack hr).2.trans (h.stack hr).2⟩
  memory hr a := (h'.memory hr a).trans (h.memory hr a)
  display hr := (h'.display hr).trans (h.display hr)
  delay hr := (h'.delay hr).trans (h.delay hr)
  sound hr := (h'.sound hr).trans (h.sound hr)
  latch hr := by have := h.latch hr; have := h'.latch hr; simp_all
  draws hr := (h'.draws hr).trans (h.draws hr)
  inputs := by have := h.inputs; have := h'.inputs; simp_all
  outputs := h'.outputs.trans h.outputs
  requests := h'.requests.trans h.requests
  parameter := h'.parameter.trans h.parameter

/-- A frame that allows less is a frame that allows more. -/
theorem Frame.mono {l l' : List Part} {s t : State} (h : Frame l s t) (hs : l ⊆ l') : Frame l' s t where
  regs r hr := h.regs r fun x => hr (hs x)
  pc hr := h.pc fun x => hr (hs x)
  index hr := h.index fun x => hr (hs x)
  stack hr := h.stack fun x => hr (hs x)
  memory hr := h.memory fun x => hr (hs x)
  display hr := h.display fun x => hr (hs x)
  delay hr := h.delay fun x => hr (hs x)
  sound hr := h.sound fun x => hr (hs x)
  latch hr := h.latch fun x => hr (hs x)
  draws hr := h.draws fun x => hr (hs x)
  inputs := h.inputs
  outputs := h.outputs
  requests := h.requests
  parameter := h.parameter

theorem frame_setV {l : List Part} (s : State) {x : RegIdx} (b : Byte) (h : Part.reg x ∈ l) : Frame l s (s.setV x b) := by
  constructor
  · intro r hr
    exact s.reg_setV_ne b fun e => hr (e ▸ h)
  all_goals simp

theorem frame_setPc {l : List Part} (s : State) (a : Word) (h : Part.pc ∈ l) : Frame l s (s.setPc a) := by
  constructor <;> first | exact fun hn => absurd h hn | (intros; simp [State.reg])

theorem frame_setI {l : List Part} (s : State) (a : Word) (h : Part.index ∈ l) : Frame l s (s.setI a) := by
  constructor <;> first | exact fun hn => absurd h hn | (intros; simp [State.reg])

theorem frame_setMemory {l : List Part} (s : State) {m : Memory} (hf : m.font = s.memory.font) (h : Part.memory ∈ l) :
    Frame l s (s.setMemory m) := by
  constructor <;> first | exact fun hn => absurd h hn | exact hf | (intros; simp [State.reg])

theorem frame_setDisplay {l : List Part} (s : State) (d : Display) (h : Part.display ∈ l) :
    Frame l s (s.setDisplay d) := by
  constructor <;> first | exact fun hn => absurd h hn | (intros; simp [State.reg])

theorem frame_setDelay {l : List Part} (s : State) (b : Byte) (h : Part.delay ∈ l) : Frame l s (s.setDelay b) := by
  constructor <;> first | exact fun hn => absurd h hn | (intros; simp [State.reg])

theorem frame_setSound {l : List Part} (s : State) (b : Byte) (h : Part.sound ∈ l) : Frame l s (s.setSound b) := by
  constructor <;> first | exact fun hn => absurd h hn | (intros; simp [State.reg])

theorem frame_skipIf {l : List Part} (s : State) (c : Bool) (h : Part.pc ∈ l) : Frame l s (s.skipIf c) := by
  cases c
  · exact Frame.refl l s
  · exact frame_setPc s _ h

/-- Taking a fault in the execute phase (R178). -/
theorem raised_latchFault (f : Fault) (s : State) :
    Raised f s (s.latchFault f s.statusOut.word s.statusOut.addr) := by
  refine ⟨rfl, rfl, rfl, rfl, rfl, ?_⟩
  constructor <;> (intros; simp_all [State.reg])

/-- What the fault entry does, whole: it answers a next state in which the fault is raised. -/
theorem raiseFault_spec (f : Fault) (s : State) : ∃ t, raiseFault f s = .next t ∧ Raised f s t :=
  ⟨_, rfl, raised_latchFault f s⟩

end Sys2Proof.Machine
end

