-- ==== Sys2Proof/Laws/Memory.lean ====
section
/-! SUPPORT. Reads after writes, and that every memory operation keeps the canonical form. -/

namespace Sys2Proof.Machine

/-! ### Reading -/

theorem cellsRead_erase_same (d : Byte) (m : List Host.Cell) (a : Nat) : cellsRead d (cellsErase m a) a = d := by
  induction m with
  | nil => rfl
  | cons c m ih =>
    obtain ⟨k, b⟩ := c
    by_cases h : k = a
    · simpa [cellsErase, h] using ih
    · simpa [cellsErase, h, cellsRead] using ih

theorem cellsRead_erase_ne (d : Byte) (m : List Host.Cell) {a c : Nat} (h : c ≠ a) :
    cellsRead d (cellsErase m a) c = cellsRead d m c := by
  induction m with
  | nil => rfl
  | cons e m ih =>
    obtain ⟨k, b⟩ := e
    by_cases hk : k = a
    · have : k ≠ c := fun e => h (e.symm.trans hk)
      simpa [cellsErase, hk, cellsRead, this, Ne.symm h] using ih
    · by_cases hc : k = c
      · subst hc
        simp [cellsErase, hk, cellsRead]
      · simpa [cellsErase, hk, cellsRead, hc] using ih

theorem cellsRead_insert_same (d : Byte) (m : List Host.Cell) (a : Nat) (b : Byte) :
    cellsRead d (cellsInsert m a b) a = b := by
  induction m with
  | nil => simp [cellsInsert, cellsRead]
  | cons c m ih =>
    obtain ⟨k, e⟩ := c
    by_cases hk : k < a
    · have : k ≠ a := by omega
      simpa [cellsInsert, hk, cellsRead, this] using ih
    · simp [cellsInsert, hk, cellsRead]

theorem cellsRead_insert_ne (d : Byte) (m : List Host.Cell) {a c : Nat} (b : Byte) (h : c ≠ a) :
    cellsRead d (cellsInsert m a b) c = cellsRead d m c := by
  induction m with
  | nil => simp [cellsInsert, cellsRead, Ne.symm h]
  | cons e m ih =>
    obtain ⟨k, f⟩ := e
    by_cases hk : k < a <;> simp [cellsInsert, hk, cellsRead, Ne.symm h, ih]

/-- A write leaves the font parameter alone, and so do several. -/
@[simp] theorem Memory.write_font (m : Memory) (a : Nat) (b : Byte) : (m.write a b).font = m.font := rfl

@[simp] theorem Memory.writeBytes_font : ∀ (bs : List Byte) (m : Memory) (a : Nat), (m.writeBytes a bs).font = m.font
  | [], _, _ => rfl
  | _ :: bs, m, a => Memory.writeBytes_font bs (m.write a _) (a + 1)

/-- A read after a write to the same address gives the byte written. -/
@[simp] theorem Memory.read_write_same (m : Memory) (a : Nat) (b : Byte) : (m.write a b).read a = b := by
  unfold Memory.write Memory.read
  dsimp only
  split
  · next h => rw [cellsRead_erase_same, h]
  · exact cellsRead_insert_same _ _ a b

/-- A write leaves every other address alone. -/
theorem Memory.read_write_ne (m : Memory) {a c : Nat} (b : Byte) (h : c ≠ a) : (m.write a b).read c = m.read c := by
  unfold Memory.write Memory.read
  dsimp only
  split
  · exact cellsRead_erase_ne _ _ h
  · rw [cellsRead_insert_ne _ _ b h, cellsRead_erase_ne _ _ h]

/-! ### The canonical form -/

theorem cellsCanonical_cons {font : Config.Font} {lo k : Nat} {b : Byte} {m : List Host.Cell} :
    cellsCanonical font lo ((k, b) :: m) = true ↔
      lo ≤ k ∧ k < memBytes ∧ b ≠ resetByte font k ∧ cellsCanonical font (k + 1) m = true := by
  simp [cellsCanonical, and_assoc]

theorem cellsCanonical_mono {font : Config.Font} {m : List Host.Cell} {lo lo' : Nat}
    (h : cellsCanonical font lo m = true) (hle : lo' ≤ lo) : cellsCanonical font lo' m = true := by
  cases m with
  | nil => rfl
  | cons c m =>
    obtain ⟨k, b⟩ := c
    rw [cellsCanonical_cons] at h ⊢
    exact ⟨by omega, h.2⟩

theorem cellsErase_canonical {font : Config.Font} {m : List Host.Cell} (a : Nat) :
    ∀ {lo : Nat}, cellsCanonical font lo m = true → cellsCanonical font lo (cellsErase m a) = true := by
  induction m with
  | nil => intro _ h; exact h
  | cons c m ih =>
    obtain ⟨k, b⟩ := c
    intro lo h
    rw [cellsCanonical_cons] at h
    by_cases hk : k = a
    · have : cellsErase ((k, b) :: m) a = cellsErase m a := by simp [cellsErase, hk]
      rw [this]
      exact cellsCanonical_mono (ih h.2.2.2) (by omega)
    · have : cellsErase ((k, b) :: m) a = (k, b) :: cellsErase m a := by simp [cellsErase, hk]
      rw [this, cellsCanonical_cons]
      exact ⟨h.1, h.2.1, h.2.2.1, ih h.2.2.2⟩

theorem cellsInsert_canonical {font : Config.Font} {m : List Host.Cell} {a : Nat} {b : Byte} (ha : a < memBytes)
    (hb : b ≠ resetByte font a) :
    ∀ {lo : Nat}, cellsCanonical font lo m = true → (∀ c ∈ m, c.1 ≠ a) → lo ≤ a →
      cellsCanonical font lo (cellsInsert m a b) = true := by
  induction m with
  | nil => intro lo _ _ hlo; exact cellsCanonical_cons.2 ⟨hlo, ha, hb, rfl⟩
  | cons c m ih =>
    obtain ⟨k, d⟩ := c
    intro lo h hne hlo
    have hk : k ≠ a := hne (k, d) (by simp)
    rw [cellsCanonical_cons] at h
    by_cases hka : k < a
    · rw [cellsInsert, if_pos hka, cellsCanonical_cons]
      exact ⟨h.1, h.2.1, h.2.2.1, ih h.2.2.2 (fun c hc => hne c (by simp [hc])) (by omega)⟩
    · rw [cellsInsert, if_neg hka, cellsCanonical_cons, cellsCanonical_cons]
      exact ⟨hlo, ha, hb, by omega, h.2.1, h.2.2.1, h.2.2.2⟩

/-- Writing one byte of an address that exists keeps the canonical form. -/
theorem Memory.write_wf {m : Memory} {a : Nat} (b : Byte) (h : m.wf = true) (ha : a < memBytes) :
    (m.write a b).wf = true := by
  have he := cellsErase_canonical a h
  unfold Memory.write Memory.wf
  dsimp only
  split
  · exact he
  · next hb =>
    exact cellsInsert_canonical ha hb he (fun c hc => by simpa [cellsErase] using (List.mem_filter.1 hc).2)
      (Nat.zero_le a)

/-- Writing bytes of addresses that all exist keeps the canonical form. -/
theorem Memory.writeBytes_wf : ∀ (bs : List Byte) {m : Memory} {a : Nat},
    m.wf = true → a + bs.length ≤ memBytes → (m.writeBytes a bs).wf = true
  | [], _, _, h, _ => h
  | b :: bs, m, a, h, hlen => by
    simp only [List.length_cons] at hlen
    exact Memory.writeBytes_wf bs (Memory.write_wf b h (by omega)) (by omega)

/-! ### Several bytes -/

/-- Outside the bytes written every address reads as before. -/
theorem Memory.read_writeBytes_outside : ∀ (bs : List Byte) {m : Memory} {a c : Nat},
    (c < a ∨ a + bs.length ≤ c) → (m.writeBytes a bs).read c = m.read c
  | [], _, _, _, _ => rfl
  | b :: bs, m, a, c, h => by
    simp only [List.length_cons] at h
    rw [Memory.writeBytes, Memory.read_writeBytes_outside bs (by omega), Memory.read_write_ne m b (by omega)]

/-- The `k`-th byte written is read back from the `k`-th address. -/
theorem Memory.read_writeBytes_at : ∀ (bs : List Byte) {m : Memory} {a k : Nat},
    k < bs.length → (m.writeBytes a bs).read (a + k) = bs.getD k 0
  | [], _, _, _, h => absurd h (Nat.not_lt_zero _)
  | b :: bs, m, a, 0, _ => by
    rw [Memory.writeBytes, Memory.read_writeBytes_outside bs (by omega), Nat.add_zero, Memory.read_write_same]
    rfl
  | b :: bs, m, a, k + 1, hk => by
    simp only [List.length_cons] at hk
    rw [Memory.writeBytes, show a + (k + 1) = a + 1 + k by omega, Memory.read_writeBytes_at bs (by omega)]
    rfl

/-! ### Reset contents -/

/-- Reset memory is canonical, whatever the font. -/
theorem State.resetWith_memory_wf (font : Config.Font) : (State.resetWith font).memory.wf = true := rfl

/-- Reset memory reads as its reset contents. -/
@[simp] theorem State.resetWith_read (font : Config.Font) (a : Nat) :
    (State.resetWith font).memory.read a = resetByte font a := rfl

theorem resetByte_font (font : Config.Font) {a : Nat} (h : a < 80) : resetByte font a = font[a] := dif_pos h

/-- Above the font reset memory reads 0 (R37). -/
theorem resetByte_above (font : Config.Font) {a : Nat} (h : 80 ≤ a) : resetByte font a = 0 := dif_neg (by omega)

end Sys2Proof.Machine
end

