-- ==== Sys2Proof/Laws/Ops.lean ====
section
/-! SUPPORT. What each shared operation of the machine can do, said once: the guarded access through `I`, the skip, the
flags, the registers an `FX55` stores and the registers an `FX65` loads. -/

namespace Sys2Proof.Machine

/-! ### Guarded accesses -/

theorem accessOk_iff (base n : Nat) : accessOk base n = true ↔ n = 0 ∨ base + n - 1 ≤ 4095 := by
  simp [accessOk]

theorem guardAccess_ok {n : Nat} {k : State → State} {s : State} (h : n = 0 ∨ s.i.toNat + n - 1 ≤ 4095) :
    guardAccess n k s = .next (k s) :=
  if_pos ((accessOk_iff _ _).2 h)

theorem guardAccess_bad {n : Nat} {k : State → State} {s : State} (hn : n ≠ 0) (h : s.i.toNat + n - 1 > 4095) :
    guardAccess n k s = raiseFault .memoryOutOfBounds s :=
  if_neg fun ha => ((accessOk_iff _ _).1 ha).elim hn (by omega)

/-- All a guarded access can do: its state change, with every address in range, or the fault. -/
theorem guardAccess_cases (n : Nat) (k : State → State) (s : State) :
    ((n = 0 ∨ s.i.toNat + n - 1 ≤ 4095) ∧ guardAccess n k s = .next (k s)) ∨
      (n ≠ 0 ∧ s.i.toNat + n - 1 > 4095 ∧ guardAccess n k s = raiseFault .memoryOutOfBounds s) := by
  by_cases h : n = 0 ∨ s.i.toNat + n - 1 ≤ 4095
  · exact .inl ⟨h, guardAccess_ok h⟩
  · have hn : n ≠ 0 := fun e => h (.inl e)
    have hb : s.i.toNat + n - 1 > 4095 := by omega
    exact .inr ⟨hn, hb, guardAccess_bad hn hb⟩

/-! ### Skips and flags -/

theorem State.skipIf_pc (s : State) (c : Bool) : (s.skipIf c).pc = if c then s.pc + 2 else s.pc := by
  cases c <;> rfl

theorem flag_decide (p : Prop) [Decidable p] : flag (decide p) = if p then 1 else 0 := by
  simp [flag]

/-- A claim about every byte, checked on the 256 of them. -/
theorem byte_forall {P : Byte → Prop} (h : ∀ k : Fin 256, P (BitVec.ofFin k)) (b : Byte) : P b := h b.toFin

theorem lowBit_toNat (b : Byte) : (lowBit b).toNat = b.toNat % 2 := by
  revert b; exact byte_forall (by decide +kernel)

theorem highBit_toNat (b : Byte) : (highBit b).toNat = b.toNat / 128 := by
  revert b; exact byte_forall (by decide +kernel)

theorem countDown_toNat (b : Byte) : (countDown b).toNat = b.toNat - 1 := by
  revert b; exact byte_forall (by decide +kernel)

/-! ### `FX55` and `FX65` -/

@[simp] theorem State.regsTo_length (s : State) (x : RegIdx) : (s.regsTo x).length = x.val + 1 := by
  simp [State.regsTo]

theorem State.regsTo_getD (s : State) {x r : RegIdx} (h : r ≤ x) : (s.regsTo x).getD r.val 0 = s.reg r := by
  have : r.val ≤ x.val := h
  simp [State.regsTo, State.reg, List.getElem?_take_of_lt (show r.val < x.val + 1 by omega)]

/-- Loading registers writes the register file only. -/
theorem State.loadFirst_eq (s : State) : ∀ n, s.loadFirst n = { s with v := (s.loadFirst n).v }
  | 0 => rfl
  | n + 1 => by simp only [State.loadFirst]; rw [State.loadFirst_eq s n]

theorem State.reg_loadFirst (s : State) (r : RegIdx) :
    ∀ n, n ≤ 16 → (s.loadFirst n).reg r = if r.val < n then s.loadAt r.val else s.reg r
  | 0, _ => by simp [State.loadFirst]
  | n + 1, h => by
    have ih := State.reg_loadFirst s r n (by omega)
    have e : (s.loadFirst (n + 1)).reg r = ((s.loadFirst n).v.setIfInBounds n (s.loadAt n))[r.val] := rfl
    rw [e, Vector.getElem_setIfInBounds]
    by_cases hr : r.val = n
    · subst hr; simp
    · rw [if_neg fun e => hr e.symm]
      simp only [show r.val < n ↔ r.val < n + 1 by omega] at ih
      exact ih

end Sys2Proof.Machine
end

