-- ==== Sys2Proof/Laws/PerInstr.lean ====
section
/-! SUPPORT. Statements for all instructions, one lemma per constructor.
`MatchesRow`: the word of an instruction fits the instruction's own row of spec/30_encoding.md R78. -/

namespace Sys2Proof

/-! ### A word assembled in a format of R72 fits a row with the format's mask and the same fixed fields -/

theorem fits_NNN (m : String) (f : BitVec 4) (nnn : BitVec 12) :
    OpcodeRow.fits ⟨m, encodeNNN f 0, 0xF000⟩ (encodeNNN f nnn) = true := by
  simp [OpcodeRow.fits, and_F000]

theorem fits_XNN (m : String) (f : BitVec 4) (x : RegIdx) (nn : Byte) :
    OpcodeRow.fits ⟨m, encodeNNN f 0, 0xF000⟩ (encodeXNN f x nn) = true := by
  simp [OpcodeRow.fits, and_F000]

theorem fits_XYN (m : String) (f : BitVec 4) (x y : RegIdx) (n : BitVec 4) :
    OpcodeRow.fits ⟨m, encodeNNN f 0, 0xF000⟩ (encodeXYN f x y n) = true := by
  simp [OpcodeRow.fits, and_F000]

theorem fits_XY (m : String) (f : BitVec 4) (x y : RegIdx) (n : BitVec 4) :
    OpcodeRow.fits ⟨m, encodeXYN f 0 0 n, 0xF00F⟩ (encodeXYN f x y n) = true := by
  simp [OpcodeRow.fits, and_F00F]

theorem fits_X (m : String) (f : BitVec 4) (x : RegIdx) (nn : Byte) :
    OpcodeRow.fits ⟨m, encodeXNN f 0 nn, 0xF0FF⟩ (encodeXNN f x nn) = true := by
  simp [OpcodeRow.fits, and_F0FF]

end Sys2Proof

namespace Sys2Proof.Laws.MatchesRow

/-- The word of `i` fits the row of `i`. -/
def Statement (i : Instr) : Prop := (opcodeRow i).fits (encode i) = true

theorem cls : Statement (.cls) := rfl

theorem ret : Statement (.ret) := rfl

theorem jp (nnn : BitVec 12) : Statement (.jp nnn) := fits_NNN _ _ nnn

theorem call (nnn : BitVec 12) : Statement (.call nnn) := fits_NNN _ _ nnn

theorem seImm (x : RegIdx) (nn : Byte) : Statement (.seImm x nn) := fits_XNN _ _ x nn

theorem sneImm (x : RegIdx) (nn : Byte) : Statement (.sneImm x nn) := fits_XNN _ _ x nn

theorem seReg (x : RegIdx) (y : RegIdx) : Statement (.seReg x y) := fits_XY _ _ x y _

theorem ldImm (x : RegIdx) (nn : Byte) : Statement (.ldImm x nn) := fits_XNN _ _ x nn

theorem addImm (x : RegIdx) (nn : Byte) : Statement (.addImm x nn) := fits_XNN _ _ x nn

theorem ldReg (x : RegIdx) (y : RegIdx) : Statement (.ldReg x y) := fits_XY _ _ x y _

theorem orReg (x : RegIdx) (y : RegIdx) : Statement (.orReg x y) := fits_XY _ _ x y _

theorem andReg (x : RegIdx) (y : RegIdx) : Statement (.andReg x y) := fits_XY _ _ x y _

theorem xorReg (x : RegIdx) (y : RegIdx) : Statement (.xorReg x y) := fits_XY _ _ x y _

theorem addReg (x : RegIdx) (y : RegIdx) : Statement (.addReg x y) := fits_XY _ _ x y _

theorem sub (x : RegIdx) (y : RegIdx) : Statement (.sub x y) := fits_XY _ _ x y _

theorem shr (x : RegIdx) (y : RegIdx) : Statement (.shr x y) := fits_XY _ _ x y _

theorem subn (x : RegIdx) (y : RegIdx) : Statement (.subn x y) := fits_XY _ _ x y _

theorem shl (x : RegIdx) (y : RegIdx) : Statement (.shl x y) := fits_XY _ _ x y _

theorem sneReg (x : RegIdx) (y : RegIdx) : Statement (.sneReg x y) := fits_XY _ _ x y _

theorem ldI (nnn : BitVec 12) : Statement (.ldI nnn) := fits_NNN _ _ nnn

theorem jpV0 (nnn : BitVec 12) : Statement (.jpV0 nnn) := fits_NNN _ _ nnn

theorem rnd (x : RegIdx) (nn : Byte) : Statement (.rnd x nn) := fits_XNN _ _ x nn

theorem drw (x : RegIdx) (y : RegIdx) (n : Fin 16) : Statement (.drw x y n) := fits_XYN _ _ x y _

theorem skp (x : RegIdx) : Statement (.skp x) := fits_X _ _ x _

theorem sknp (x : RegIdx) : Statement (.sknp x) := fits_X _ _ x _

theorem ldVxDT (x : RegIdx) : Statement (.ldVxDT x) := fits_X _ _ x _

theorem ldVxK (x : RegIdx) : Statement (.ldVxK x) := fits_X _ _ x _

theorem ldDTVx (x : RegIdx) : Statement (.ldDTVx x) := fits_X _ _ x _

theorem ldSTVx (x : RegIdx) : Statement (.ldSTVx x) := fits_X _ _ x _

theorem addI (x : RegIdx) : Statement (.addI x) := fits_X _ _ x _

theorem ldF (x : RegIdx) : Statement (.ldF x) := fits_X _ _ x _

theorem ldB (x : RegIdx) : Statement (.ldB x) := fits_X _ _ x _

theorem storeRegs (x : RegIdx) : Statement (.storeRegs x) := fits_X _ _ x _

theorem loadRegs (x : RegIdx) : Statement (.loadRegs x) := fits_X _ _ x _

end Sys2Proof.Laws.MatchesRow
end

