-- ==== Sys2Proof/Laws/Step.lean ====
section
/-! SUPPORT. What one step can do, said once for each kind of request and each way a CPU cycle can go; and how a run is
cut into steps. -/

namespace Sys2Proof.Machine

theorem step_eq_serve (s : State) : step s = serve s.nextRequest s.popRequest := rfl

theorem step_of_nextIsCycle {s : State} {keysIn : BitVec 16} {rnd : Option (Fin Config.randMod)} {rest : List Request}
    (h : s.NextIsCycle keysIn rnd rest) : step s = cpuCycle keysIn rnd { s with pending := rest } := by
  rcases h with h | ⟨h, rfl, rfl, rfl⟩ <;> simp [step, State.nextRequest, State.popRequest, h, serve]

/-- A next request that is a CPU cycle is one in either of its two forms. -/
theorem nextIsCycle_of_nextRequest {s : State} {keysIn : BitVec 16} {rnd : Option (Fin Config.randMod)}
    (h : s.nextRequest = .cpuCycle keysIn rnd) : s.NextIsCycle keysIn rnd s.pending.tail := by
  unfold State.nextRequest at h
  cases hp : s.pending with
  | nil => rw [hp] at h; simp at h; exact .inr ⟨hp, h.1.symm, h.2.symm, rfl⟩
  | cons r rest => rw [hp] at h; simp at h; exact .inl (by rw [hp, h, List.tail_cons])

theorem cpuCycle_halted {s : State} (h : s.halted = true) (keysIn : BitVec 16) (rnd : Option (Fin Config.randMod)) :
    cpuCycle keysIn rnd s = .next s := if_pos h

/-- A cycle of a running core that can fetch runs the word at `pc`. -/
theorem step_fetched {s : State} {keysIn : BitVec 16} {rnd : Option (Fin Config.randMod)} {rest : List Request}
    (hh : s.halted = false) (h : s.NextIsCycle keysIn rnd rest) (hp : s.pc.toNat ≤ 4094) :
    step s = runWord (s.wordAt s.pc.toNat) (s.started keysIn rnd rest (s.wordAt s.pc.toNat)) := by
  rw [step_of_nextIsCycle h]
  have hp' : ¬ s.pc.toNat > 4094 := by omega
  unfold cpuCycle
  rw [if_neg (by simp [hh])]
  simp only [State.sampleInputs, State.fetchWord, hp', if_false]
  rfl

/-- A cycle of a running core that cannot fetch raises the fetch fault. -/
theorem step_notFetched {s : State} {keysIn : BitVec 16} {rnd : Option (Fin Config.randMod)} {rest : List Request}
    (hh : s.halted = false) (h : s.NextIsCycle keysIn rnd rest) (hp : s.pc.toNat > 4094) :
    step s = .next (({ s with pending := rest }.sampleInputs keysIn rnd).latchFault .fetchOutOfBounds 0 s.pc) := by
  rw [step_of_nextIsCycle h]
  unfold cpuCycle
  rw [if_neg (by simp [hh])]
  simp only [State.sampleInputs, State.fetchWord, hp, if_true]

/-- A word is executed as the instruction it decodes to, or reported unknown. -/
theorem runWord_cases (w : Word) (s : State) :
    (∃ i, decode w = .ok i ∧ runWord w s = exec i s) ∨
      ((∀ i, decode w ≠ .ok i) ∧ runWord w s = .next s.unknownOpcode) := by
  unfold runWord
  cases h : decode w with
  | ok i => exact .inl ⟨i, rfl, rfl⟩
  | error e => exact .inr ⟨by simp, rfl⟩

/-- What a load request does, whole. -/
theorem loadPort_cases (addr : BitVec 12) (data : Byte) (s : State) :
    (s.loadOpen = true ∧ 0x200 ≤ addr.toNat ∧
      loadPort addr data s = .next (s.setMemory (s.memory.write addr.toNat data))) ∨
    (s.loadOpen = false ∧ loadPort addr data s = .refused .loadPortClosed) ∨
    (s.loadOpen = true ∧ addr.toNat < 0x200 ∧ loadPort addr data s = .refused .loadBelowProgram) := by
  by_cases ho : s.loadOpen = true
  · by_cases ha : 0x200 ≤ addr.toNat
    · exact .inl ⟨ho, ha, by simp [loadPort, ho, loadAddrWellFormed, ha]⟩
    · exact .inr (.inr ⟨ho, by omega, by simp [loadPort, ho, loadAddrWellFormed, ha]⟩)
  · simp at ho
    exact .inr (.inl ⟨ho, by simp [loadPort, ho]⟩)

/-! ### Runs -/

theorem core_run_zero (s : State) : core.run 0 s = .next s := rfl

theorem core_run_next (n : Nat) {s t : State} (h : step s = .next t) : core.run (n + 1) s = core.run n t := by
  rw [Host.Core.run.eq_2 core s n]
  have h' : core.step s = .next t := h
  rw [h']

end Sys2Proof.Machine
end

