-- ==== Sys2Proof/Tests/Slice0.lean ====
section
/-! SUPPORT. The model's own tests. Decoding: words written out bit by bit from spec/30_encoding.md R72 and R78.
Single steps: the vectors of spec/95_test_vectors.md, named by their ids. Witnesses: for every statement with
hypotheses, states and operands that meet them all, at the boundary of each clause. -/

namespace Sys2Proof.Tests

-- Theorems of this file are elaborated one after another: many at once would need too many threads.
set_option Elab.async false

open Sys2Proof.Machine

/-! ### Helpers -/

/-- The reset state with the word `w` at `0x200`. -/
def ready (w : Nat) : State := State.reset.withFetchWord 16 w

/-- `s` with registers set. -/
def withRegs (s : State) (l : List (RegIdx × Byte)) : State := l.foldl (fun s p => s.setV p.1 p.2) s

/-- `s` with bytes placed in memory from `a` up. -/
def withBytes (s : State) (a : Nat) (bs : List Byte) : State := s.setMemory (s.memory.writeBytes a bs)

/-- `s` with a CPU cycle asked for, with these keys and this draw. -/
def withCycle (s : State) (keys : BitVec 16) (rnd : Option (Fin Config.randMod)) : State :=
  { s with pending := [.cpuCycle keys rnd] }

/-- What the next step leaves, seen through `view`. -/
def after {α : Type} (s : State) (view : State → α) : Option α :=
  match step s with
  | .next t => some (view t)
  | _ => none

/-- The cells that are on in row `y`. -/
def litRow (s : State) (y : Nat) : List Nat := (List.range 64).filter fun x => s.display.pixel x y

/-! ### Decoding (R72, R78) -/

/-- Every word of the list decodes to the instruction beside it. -/
def decodesTo (l : List (Word × Instr)) : Bool := l.all fun p => decode p.1 = .ok p.2

theorem test_decode_op : decodesTo [
    (0b0000_0000_1110_0000, .cls),
    (0b0000_0000_1110_1110, .ret)] = true := by decide

theorem test_decode_nnn : decodesTo [
    (0b0001_1010_1011_1100, .jp 0xABC),
    (0b0010_0000_0000_0001, .call 0x001),
    (0b1010_1111_0101_1010, .ldI 0xF5A),
    (0b1011_1000_0000_0000, .jpV0 0x800)] = true := by decide

theorem test_decode_xnn : decodesTo [
    (0b0011_1010_0010_1011, .seImm 10 0x2B),
    (0b0100_0001_1000_0000, .sneImm 1 0x80),
    (0b0110_1111_0000_0001, .ldImm 15 0x01),
    (0b0111_0010_1111_1110, .addImm 2 0xFE),
    (0b1100_0011_0111_0111, .rnd 3 0x77)] = true := by decide

theorem test_decode_xy : decodesTo [
    (0b0101_0001_0010_0000, .seReg 1 2),
    (0b1001_1110_0111_0000, .sneReg 14 7),
    (0b1000_0011_0100_0000, .ldReg 3 4),
    (0b1000_0011_0100_0001, .orReg 3 4),
    (0b1000_0011_0100_0010, .andReg 3 4),
    (0b1000_0011_0100_0011, .xorReg 3 4),
    (0b1000_0011_0100_0100, .addReg 3 4),
    (0b1000_0011_0100_0101, .sub 3 4),
    (0b1000_0011_0100_0110, .shr 3 4),
    (0b1000_0011_0100_0111, .subn 3 4),
    (0b1000_0011_0100_1110, .shl 3 4)] = true := by decide

theorem test_decode_xyn : decodesTo [
    (0b1101_0001_1000_1111, .drw 1 8 15),
    (0b1101_1111_0000_0000, .drw 15 0 0)] = true := by decide

theorem test_decode_x : decodesTo [
    (0b1110_0101_1001_1110, .skp 5),
    (0b1110_0101_1010_0001, .sknp 5),
    (0b1111_0110_0000_0111, .ldVxDT 6),
    (0b1111_0110_0000_1010, .ldVxK 6),
    (0b1111_0110_0001_0101, .ldDTVx 6),
    (0b1111_0110_0001_1000, .ldSTVx 6),
    (0b1111_0110_0001_1110, .addI 6),
    (0b1111_0110_0010_1001, .ldF 6),
    (0b1111_0110_0011_0011, .ldB 6),
    (0b1111_0110_0101_0101, .storeRegs 6),
    (0b1111_0110_0110_0101, .loadRegs 6)] = true := by decide

/-- X1 to X15: none falls through to a neighbour. -/
theorem test_decode_unknown : ([0x0000, 0x00E1, 0x01E0, 0x00FF, 0x0123, 0x5121, 0x8128, 0x812F, 0x9AB1, 0xE09F, 0xE1A0,
    0xF000, 0xF166, 0xF175, 0xFFFF] : List Word).all
      (fun w => match decode w with | .ok _ => false | .error _ => true) = true := by decide

/-- R84: the match and mask columns of the table, row by row. -/
theorem test_rows_are_the_table : (opcodeRows.map fun r => (r.value.toNat, r.mask.toNat)) = [
    (0x00E0, 0xFFFF), (0x00EE, 0xFFFF), (0x1000, 0xF000), (0x2000, 0xF000), (0x3000, 0xF000), (0x4000, 0xF000),
    (0x5000, 0xF00F), (0x6000, 0xF000), (0x7000, 0xF000), (0x8000, 0xF00F), (0x8001, 0xF00F), (0x8002, 0xF00F)] ++ [
    (0x8003, 0xF00F), (0x8004, 0xF00F), (0x8005, 0xF00F), (0x8006, 0xF00F), (0x8007, 0xF00F), (0x800E, 0xF00F),
    (0x9000, 0xF00F), (0xA000, 0xF000), (0xB000, 0xF000), (0xC000, 0xF000), (0xD000, 0xF000), (0xE09E, 0xF0FF)] ++ [
    (0xE0A1, 0xF0FF), (0xF007, 0xF0FF), (0xF00A, 0xF0FF), (0xF015, 0xF0FF), (0xF018, 0xF0FF), (0xF01E, 0xF0FF),
    (0xF029, 0xF0FF), (0xF033, 0xF0FF), (0xF055, 0xF0FF), (0xF065, 0xF0FF)] := by decide

/-- A word is stored high byte first (R70). -/
theorem test_decode_byte_order : decodeBytes [0x12, 0x34] = .ok (.jp 0x234, []) := by decide

theorem test_decode_table_word : decodeTableWord 16 0xF365 = some (.loadRegs 3) := by decide

/-! ### Well-formedness smoke: one ill-formed term for each check -/

theorem test_image_too_long_is_refused : imageWellFormed (List.replicate 3585 0) = false := by
  unfold imageWellFormed
  rw [List.length_replicate]
  decide

theorem test_load_below_program_is_refused : loadAddrWellFormed 0x1FF = false := by decide

/-- R36: the core does not serve such a request, nor one after the first CPU cycle. -/
theorem test_load_requests_refused :
    step { State.reset with pending := [.load 0x1FF 1] } = .refused .loadBelowProgram ∧
    step { State.reset with pending := [.load 0x200 1], loadOpen := false } = .refused .loadPortClosed := ⟨rfl, rfl⟩

/-! ### Single steps -/

/-- S13: `VF` keeps its value. -/
theorem test_cls : after { withRegs (ready 0x00E0) [(15, 1)] with display := Vector.replicate 32 0x400 }
    (fun t => (litRow t 0, litRow t 31, t.reg 15)) = some ([], [], 1) := by decide +kernel

/-- T1. -/
theorem test_ret : after { ({ State.reset with pc := 0x300 } : State).withFetchWord 16 0x00EE with
      sp := 1, stack := State.reset.stack.set 0 0x202 }
    (fun t => (t.pc, t.sp.val)) = some (0x202, 0) := by decide +kernel

/-- T2. -/
theorem test_ret_underflow : after (({ State.reset with pc := 0x300 } : State).withFetchWord 16 0x00EE)
    (fun t => (t.pc, t.halted, t.statusOut)) = some (0x302, true, ⟨.stackUnderflow, 0x00EE, 0x300⟩) := by decide +kernel

/-- T3. -/
theorem test_jp : after (ready 0x1FFF) (fun t => (t.pc, t.statusOut.code)) = some (0xFFF, .ok) := by decide +kernel

/-- T6. -/
theorem test_call : after { ready 0x2300 with sp := 15 } (fun t => (t.pc, t.sp.val, t.stack[15])) =
    some (0x300, 16, 0x202) := by decide +kernel

/-- T7. -/
theorem test_call_overflow : after { ready 0x2300 with sp := 16 } (fun t => (t.pc, t.sp.val, t.faultCode)) =
    some (0x202, 16, .stackOverflow) := by decide +kernel

/-- T10. -/
theorem test_seImm : after (withRegs (ready 0x3A2A) [(10, 0x2B)]) (·.pc) = some 0x202 := by decide +kernel

/-- T11. -/
theorem test_sneImm : after (withRegs (ready 0x4A2A) [(10, 0x2B)]) (·.pc) = some 0x204 := by decide +kernel

/-- T14. -/
theorem test_seReg : after (withRegs (ready 0x5120) [(1, 1), (2, 2)]) (·.pc) = some 0x202 := by decide +kernel

/-- T16. -/
theorem test_sneReg : after (withRegs (ready 0x9120) [(1, 1), (2, 2)]) (·.pc) = some 0x204 := by decide +kernel

/-- A1. -/
theorem test_ldImm : after (ready 0x6FAB) (fun t => (t.reg 15, t.pc)) = some (0xAB, 0x202) := by decide +kernel

/-- A2. -/
theorem test_addImm : after (withRegs (ready 0x72FF) [(2, 1), (15, 5)]) (fun t => (t.reg 2, t.reg 15)) = some (0, 5) := by
  decide +kernel

/-- A4. -/
theorem test_ldReg : after (withRegs (ready 0x8AB0) [(11, 0x5A)]) (·.reg 10) = some 0x5A := by decide +kernel

/-- A5. -/
theorem test_orReg : after (withRegs (ready 0x8121) [(1, 0xA5), (2, 0x0F), (15, 9)]) (fun t => (t.reg 1, t.reg 15)) =
    some (0xAF, 9) := by decide +kernel

/-- A6. -/
theorem test_andReg : after (withRegs (ready 0x8122) [(1, 0xA5), (2, 0x0F), (15, 9)]) (fun t => (t.reg 1, t.reg 15)) =
    some (0x05, 9) := by decide +kernel

/-- A7. -/
theorem test_xorReg : after (withRegs (ready 0x8123) [(1, 0xA5), (2, 0x0F), (15, 9)]) (fun t => (t.reg 1, t.reg 15)) =
    some (0xAA, 9) := by decide +kernel

/-- A9. -/
theorem test_addReg : after (withRegs (ready 0x8124) [(1, 0xFA), (2, 0x0A)]) (fun t => (t.reg 1, t.reg 15)) =
    some (4, 1) := by decide +kernel

/-- A14. -/
theorem test_addReg_into_vf : after (withRegs (ready 0x8F14) [(15, 0xF0), (1, 0x20)]) (·.reg 15) = some 0x10 := by
  decide +kernel

/-- A16: equal operands give 0. -/
theorem test_sub_equal : after (withRegs (ready 0x8125) [(1, 5), (2, 5), (15, 1)]) (fun t => (t.reg 1, t.reg 15)) =
    some (0, 0) := by decide +kernel

/-- A21. -/
theorem test_sub_into_vf : after (withRegs (ready 0x8F15) [(15, 0x0A), (1, 3)]) (·.reg 15) = some 0xFE := by decide +kernel

/-- A24: `VY` is not read. -/
theorem test_shr : after (withRegs (ready 0x8126) [(1, 3), (2, 0xFF)]) (fun t => (t.reg 1, t.reg 15)) = some (1, 1) := by
  decide +kernel

/-- A29. -/
theorem test_subn : after (withRegs (ready 0x8127) [(1, 0x0A), (2, 3)]) (fun t => (t.reg 1, t.reg 15)) =
    some (0xF9, 0) := by decide +kernel

/-- A31. -/
theorem test_subn_of_vf : after (withRegs (ready 0x81F7) [(1, 2), (15, 5)]) (fun t => (t.reg 1, t.reg 15)) =
    some (0xFF, 1) := by decide +kernel

/-- A33. -/
theorem test_shl : after (withRegs (ready 0x812E) [(1, 0x81), (2, 0xFF)]) (fun t => (t.reg 1, t.reg 15)) = some (2, 1) := by
  decide +kernel

/-- A35. -/
theorem test_shl_vf : after (withRegs (ready 0x8F0E) [(15, 0x80)]) (·.reg 15) = some 2 := by decide +kernel

/-- A38. -/
theorem test_rnd : after (withCycle (ready 0xC10F) 0 (some 0xB7)) (·.reg 1) = some 7 := by decide +kernel

/-- A39. -/
theorem test_rnd_masked : after (withCycle (withRegs (ready 0xC100) [(1, 0x55)]) 0 (some 0xF9)) (·.reg 1) = some 0 := by
  decide +kernel

/-- M1. -/
theorem test_ldI : after { ready 0xAFFF with i := 0x1234 } (·.i) = some 0xFFF := by decide +kernel

/-- M5. -/
theorem test_addI_wraps : after { withRegs (ready 0xF11E) [(1, 2)] with i := 0xFFFF } (fun t => (t.i, t.reg 15)) =
    some (1, 1) := by decide +kernel

/-- M6. -/
theorem test_addI_vf : after { withRegs (ready 0xFF1E) [(15, 1)] with i := 0x0FFF } (fun t => (t.i, t.reg 15)) =
    some (0x1000, 1) := by decide +kernel

/-- M9. -/
theorem test_ldF : after (withRegs (ready 0xF129) [(1, 0xFF)]) (·.i) = some 0x4FB := by decide +kernel

/-- T20. -/
theorem test_jpV0 : after (withRegs (ready 0xB201) [(0, 2)]) (·.pc) = some 0x203 := by decide +kernel

/-- M10. -/
theorem test_ldB : after { withRegs (ready 0xF133) [(1, 0xFF)] with i := 0x300 }
    (fun t => (t.memory.read 0x300, t.memory.read 0x301, t.memory.read 0x302, t.i)) = some (2, 5, 5, 0x300) := by
  decide +kernel

/-- M13. -/
theorem test_ldB_faults : after { withRegs (ready 0xF133) [(1, 0x64)] with i := 0xFFE }
    (fun t => (t.memory.read 0xFFE, t.faultCode, t.pc)) = some (0, .memoryOutOfBounds, 0x202) := by decide +kernel

/-- M14. -/
theorem test_storeRegs : after { withRegs (ready 0xF255) [(0, 0x11), (1, 0x22), (2, 0x33), (3, 0x44)] with i := 0x400 }
    (fun t => (t.i, t.memory.read 0x400, t.memory.read 0x402, t.memory.read 0x403)) =
    some (0x403, 0x11, 0x33, 0) := by decide +kernel

/-- M16. -/
theorem test_storeRegs_faults : after { withRegs (ready 0xF155) [(0, 0xAB), (1, 0xCD)] with i := 0xFFF }
    (fun t => (t.i, t.memory.read 0xFFF, t.halted)) = some (0xFFF, 0, true) := by decide +kernel

/-- M18. -/
theorem test_loadRegs : after { withBytes (ready 0xF265) 0x400 [0x11, 0x22, 0x33] with i := 0x400 }
    (fun t => (t.reg 0, t.reg 1, t.reg 2, t.i)) = some (0x11, 0x22, 0, 0x400) := by decide +kernel

/-- M19. -/
theorem test_loadRegs_none : after { withRegs (ready 0xF065) [(0, 0x77)] with i := 0xFFFF }
    (fun t => (t.reg 0, t.halted)) = some (0x77, false) := by decide +kernel

/-- S9: clipped columns are not tested. -/
theorem test_drw_clips : after { withRegs (withBytes (ready 0xD121) 0x300 [0xFF]) [(1, 0x3E), (2, 0)] with
      i := 0x300, display := State.reset.display.flip 63 0 }
    (fun t => (litRow t 0, litRow t 1, t.reg 15)) = some ([62], [], 1) := by decide +kernel

/-- S10: the origin is the old `VF`. -/
theorem test_drw_vf : after { withRegs (withBytes (ready 0xDF11) 0x300 [0x80]) [(15, 3), (1, 2)] with i := 0x300 }
    (fun t => (litRow t 2, t.reg 15)) = some ([3], 0) := by decide +kernel

/-- K1. -/
theorem test_skp : after (withCycle (withRegs (ready 0xE19E) [(1, 0x0A)]) 0x0400 none) (·.pc) = some 0x204 := by
  decide +kernel

/-- K5. -/
theorem test_skp_faults : after (withRegs (ready 0xE19E) [(1, 0x10)]) (fun t => (t.pc, t.faultCode)) =
    some (0x202, .keyIndexOutOfRange) := by decide +kernel

/-- K3. -/
theorem test_sknp : after (withCycle (withRegs (ready 0xE1A1) [(1, 0x0A)]) 0x0400 none) (·.pc) = some 0x202 := by
  decide +kernel

/-- K7. -/
theorem test_ldVxK_stalls : after (withRegs (ready 0xF30A) [(3, 0x33)]) (fun t => (t.reg 3, t.pc)) =
    some (0x33, 0x200) := by decide +kernel

/-- K8. -/
theorem test_ldVxK : after (withCycle (withRegs (ready 0xF30A) [(3, 0x33)]) 0x0220 none) (fun t => (t.reg 3, t.pc)) =
    some (5, 0x202) := by decide +kernel

/-- Z1. -/
theorem test_ldVxDT : after { ready 0xF407 with delay := 60 } (·.reg 4) = some 0x3C := by decide +kernel

/-- Z2. -/
theorem test_ldDTVx : after { withRegs (ready 0xF415) [(4, 10)] with delay := 255 } (·.delay) = some 10 := by decide +kernel

/-- Z3. -/
theorem test_ldSTVx : after (withRegs (ready 0xF418) [(4, 2)]) (fun t => (t.sound, t.toneTicks)) = some (2, 0) := by
  decide +kernel

/-- Z8. -/
theorem test_timer_tick : after { State.reset with delay := 255, sound := 2, pending := [.timerTick] }
    (fun t => (t.delay, t.sound, t.toneTicks)) = some (254, 1, 1) := by decide +kernel

/-- X9. -/
theorem test_unknown : after (ready 0x9AB1) (fun t => (t.statusOut, t.halted, t.pc)) =
    some (⟨.unknownOpcode, 0x9AB1, 0x200⟩, false, 0x202) := by decide +kernel

/-- F1. -/
theorem test_fetch_fault : after { State.reset with pc := 0xFFF }
    (fun t => (t.pc, t.halted, t.faultCode.bits, t.faultWord, t.faultAddr)) = some (0xFFF, true, 2, 0, 0xFFF) := by
  decide +kernel

/-- F5. -/
theorem test_halted_ignores_keys :
    after { State.reset.latchFault .stackUnderflow 0x00EE 0x300 with pc := 0x302, pending := [.cpuCycle 0xFFFF none] }
      (fun t => (t.keyboard, t.pc, t.statusOut)) = some (0, 0x302, ⟨.stackUnderflow, 0x00EE, 0x300⟩) := by decide +kernel

/-- R202: the first byte of an image, and the byte after its end. -/
theorem test_boot : (State.boot defaultFont [0x12, 0x00]).memory.read 0x200 = 0x12 ∧
    (State.boot defaultFont [0x12, 0x00]).memory.read 0x202 = 0 := by decide +kernel

/-- A machine with another font table: reset and boot install that one, and a reset request puts it back (R7, R200). -/
theorem test_font_is_a_parameter : (State.boot (Vector.replicate 80 0x55) []).memory.read 0x4F = 0x55 ∧
    after { withBytes (State.resetWith (Vector.replicate 80 0x55)) 0x4F [1] with pending := [.reset] }
      (fun t => (t.memory.read 0x4F, t.memory.read 0x50)) = some (0x55, 0) := by decide +kernel

/-! ### Witnesses: every statement's hypotheses are met, each clause at a boundary of its range -/

/-- The reset state with `pc` at `a` and the word `w` there. -/
def readyAt (a w : Nat) : State := ({ State.reset with pc := BitVec.ofNat 16 a } : State).withFetchWord 16 w

/-- The state a halted core is in after T2. -/
def faulted : State := { State.reset.latchFault .stackUnderflow 0x00EE 0x300 with pc := 0x302, loadOpen := false }

/-- A CPU cycle is next, in each of the two ways. -/
theorem witness_NextIsCycle :
    State.reset.NextIsCycle 0 none [] ∧ (withCycle State.reset 0x8001 (some 249)).NextIsCycle 0x8001 (some 249) [] :=
  ⟨.inr ⟨rfl, rfl, rfl, rfl⟩, .inl rfl⟩

theorem witness_DecodingFollowsTheOpcodeMap : decode 0xFF65 = .ok (.loadRegs 15) ∧
    ∃ r ∈ opcodeRows, ∃ r' ∈ opcodeRows, r.fits 0xFF65 = true ∧ r'.fits 0xFF65 = true :=
  ⟨by decide, opcodeRow (.loadRegs 0), by decide, opcodeRow (.loadRegs 0), by decide, by decide, by decide⟩

theorem witness_EncodeAfterDecodeIsIdentity : decode 0xDFFF = .ok (.drw 15 15 15) := by decide

theorem witness_ResetRequestRestoresTheCore :
    ({ faulted with pending := [.reset, .timerTick] } : State).pending = .reset :: [.timerTick] := rfl

theorem witness_EveryStepKeepsTheInvariant : ∃ s t, s.Inv ∧ step s = .next t :=
  ⟨{ State.reset with pending := [.timerTick] }, _,
    ⟨rfl, by decide, by decide, by simp [State.reset, State.resetWith], by simp [State.reset, State.resetWith],
      by simp [State.reset, State.resetWith], by simp [State.reset, State.resetWith]⟩, rfl⟩

/-- Each of the three clauses happens. -/
theorem witness_EveryStepAnswersUnlessTheHostMisusesTheLoadPort :
    (∃ t, step { State.reset with pending := [.load 0x200 1] } = .next t) ∧
    step { State.reset with pending := [.load 0x200 1], loadOpen := false } = .refused .loadPortClosed ∧
    step { State.reset with pending := [.load 0x1FF 1] } = .refused .loadBelowProgram :=
  ⟨⟨_, rfl⟩, rfl, rfl⟩

/-- At the first and the last address that can be fetched from. -/
theorem witness_StepRunsTheDecodedInstruction :
    (∃ s : State, s.halted = false ∧ s.NextIsCycle 0 none [] ∧ s.pc.toNat = 0 ∧
      decode (s.wordAt s.pc.toNat) = .ok .cls) ∧
    (∃ s : State, s.halted = false ∧ s.NextIsCycle 0 none [] ∧ s.pc.toNat = 4094 ∧
      decode (s.wordAt s.pc.toNat) = .ok (.ldImm 0 7)) :=
  ⟨⟨readyAt 0 0x00E0, rfl, .inr ⟨rfl, rfl, rfl, rfl⟩, rfl, by decide +kernel⟩,
    ⟨readyAt 4094 0x6007, rfl, .inr ⟨rfl, rfl, rfl, rfl⟩, rfl, by decide +kernel⟩⟩

theorem witness_UnknownWordOnlyAdvancesThePc : ∃ s : State, s.halted = false ∧ s.NextIsCycle 0 none [] ∧
    s.pc.toNat = 4094 ∧ ∀ r ∈ opcodeRows, r.fits (s.wordAt s.pc.toNat) = false :=
  ⟨readyAt 4094 0xFFFF, rfl, .inr ⟨rfl, rfl, rfl, rfl⟩, rfl, by decide +kernel⟩

/-- Both sides of the boundary. -/
theorem witness_FetchFaultsExactlyAbove4094 :
    (∃ s : State, s.halted = false ∧ s.NextIsCycle 0 none [] ∧ s.pc.toNat = 4095) ∧
    (∃ s t : State, s.halted = false ∧ s.NextIsCycle 0 none [] ∧ s.pc.toNat = 4094 ∧ step s = .next t) :=
  ⟨⟨{ State.reset with pc := 4095 }, rfl, .inr ⟨rfl, rfl, rfl, rfl⟩, rfl⟩,
    ⟨readyAt 4094 0x0000, _, rfl, .inr ⟨rfl, rfl, rfl, rfl⟩, rfl, rfl⟩⟩

/-- An instruction that completes, one that faults, and an unknown word. -/
theorem witness_EveryCycleReportsItsStatus :
    (∃ s t : State, s.halted = false ∧ s.NextIsCycle 0 none [] ∧ s.pc.toNat ≤ 4094 ∧ step s = .next t ∧
      t.halted = false ∧ decode (s.wordAt s.pc.toNat) = .ok .cls) ∧
    (∃ s t : State, s.halted = false ∧ s.NextIsCycle 0 none [] ∧ s.pc.toNat ≤ 4094 ∧ step s = .next t ∧
      t.halted = true) ∧
    (∃ s t : State, s.halted = false ∧ s.NextIsCycle 0 none [] ∧ s.pc.toNat ≤ 4094 ∧ step s = .next t ∧
      decode (s.wordAt s.pc.toNat) = .error (.unknownOpcode 0)) :=
  ⟨⟨ready 0x00E0, _, rfl, .inr ⟨rfl, rfl, rfl, rfl⟩, by decide, rfl, rfl, by decide +kernel⟩,
    ⟨ready 0x00EE, _, rfl, .inr ⟨rfl, rfl, rfl, rfl⟩, by decide, rfl, rfl⟩,
    ⟨State.reset, _, rfl, .inr ⟨rfl, rfl, rfl, rfl⟩, by decide, rfl, by decide +kernel⟩⟩

/-- A fault of the fetch and one of the execute phase. -/
theorem witness_FaultsArePrecise :
    (∃ s t : State, s.halted = false ∧ s.NextIsCycle 0 none [] ∧ step s = .next t ∧ t.halted = true ∧
      s.pc.toNat > 4094) ∧
    (∃ s t : State, s.halted = false ∧ s.NextIsCycle 0 none [] ∧ step s = .next t ∧ t.halted = true ∧
      s.pc.toNat ≤ 4094) :=
  ⟨⟨{ State.reset with pc := 4095 }, _, rfl, .inr ⟨rfl, rfl, rfl, rfl⟩, rfl, rfl, by decide⟩,
    ⟨ready 0x00EE, _, rfl, .inr ⟨rfl, rfl, rfl, rfl⟩, rfl, rfl, by decide⟩⟩

/-- A cycle, a tick and a reset asked of a halted core. -/
theorem witness_FaultedCoreStaysFaultedUntilReset : faulted.halted = true ∧ faulted.NextIsCycle 0 none [] ∧
    (∃ t, ({ faulted with pending := [.timerTick] } : State).nextRequest ≠ .reset ∧
      step { faulted with pending := [.timerTick] } = .next t) ∧
    ({ faulted with pending := [.reset] } : State).nextRequest = .reset :=
  ⟨rfl, .inr ⟨rfl, rfl, rfl, rfl⟩, ⟨_, by decide, rfl⟩, rfl⟩

/-- A program that has ended: `1200` at `0x200`. -/
theorem finished_ready : (ready 0x1200).Finished := ⟨rfl, by decide, 0x200, by decide +kernel, by decide⟩

theorem witness_SelfJumpChangesNothing : ∃ s : State, s.Finished ∧ s.NextIsCycle 0 none [] :=
  ⟨ready 0x1200, finished_ready, .inr ⟨rfl, rfl, rfl, rfl⟩⟩

theorem witness_EveryInstructionWritesOnlyItsParts : ∃ s t, exec (.call 0x300) s = .next t :=
  ⟨State.reset, _, rfl⟩

theorem witness_FlagRegisterWrittenOnlyAsFlagOrDestination :
    ∃ s t, exec (.sub 0 1) s = .next t ∧ t.reg VF ≠ s.reg VF :=
  ⟨withRegs State.reset [(0, 1)], _, rfl, by decide +kernel⟩

theorem witness_PcChangesOnlyAsListed : ∃ s t, exec (.jpV0 0xFFF) s = .next t ∧ t.pc ≠ s.pc :=
  ⟨State.reset, _, rfl, by decide⟩

theorem witness_StackMovesOnlyByCallAndReturn : ∃ s t, exec (.call 0x300) s = .next t ∧ t.sp ≠ s.sp ∧
    t.stack[(0 : Fin 16)] ≠ s.stack[(0 : Fin 16)] :=
  ⟨State.reset, _, rfl, by decide +kernel, by decide +kernel⟩

theorem witness_MemoryWrittenOnlyAtListedAddresses :
    ∃ s t, exec (.storeRegs 0) s = .next t ∧ t.memory.read 4095 ≠ s.memory.read 4095 :=
  ⟨{ withRegs State.reset [(0, 1)] with i := 4095 }, _, rfl, by decide +kernel⟩

/-- The first and the last free entry, and the full stack. -/
theorem witness_CallPushesTheReturnAddress : State.reset.sp.val = (0 : Fin 16).val ∧
    ({ State.reset with sp := 15 } : State).sp.val = (15 : Fin 16).val ∧
    ({ State.reset with sp := 16 } : State).sp = 16 := ⟨rfl, rfl, rfl⟩

/-- One and sixteen addresses held, and none. -/
theorem witness_ReturnPopsTheReturnAddress :
    ({ State.reset with sp := 1 } : State).sp.val = (0 : Fin 16).val + 1 ∧
    ({ State.reset with sp := 16 } : State).sp.val = (15 : Fin 16).val + 1 ∧ State.reset.sp = 0 := ⟨rfl, rfl, rfl⟩

theorem witness_ReturnUndoesCall : ∃ s t u : State, s.sp.val < 16 ∧ exec (.call 0x300) s = .next t ∧ u.sp = t.sp ∧
    u.stack = t.stack :=
  ⟨{ State.reset with sp := 15 }, _, _, by decide, rfl, rfl, rfl⟩

/-- The four columns of R124: each of `X` and `Y` may be `F` or not. -/
theorem witness_operandColumns : (14 : RegIdx) ≠ VF ∧ (0 : RegIdx) ≠ VF ∧ (15 : RegIdx) = VF := by decide

theorem witness_AddSetsTheCarry : (14 : RegIdx) ≠ VF := by decide

theorem witness_SubtractSetsStrictlyGreater : ((14 : RegIdx) ≠ VF ∧ (0 : RegIdx) ≠ VF) ∧ (15 : RegIdx) = VF := by decide

theorem witness_ReverseSubtractSetsStrictlyGreater : ((14 : RegIdx) ≠ VF ∧ (0 : RegIdx) ≠ VF) ∧ (15 : RegIdx) = VF := by
  decide

theorem witness_ShiftsPutTheLostBitIntoTheFlag : (14 : RegIdx) ≠ VF ∧ (15 : RegIdx) = VF := by decide

/-- The host presents the greatest draw; and the two masks of the statement. -/
theorem witness_RandomMasksADrawBelow250 :
    ({ State.reset with randIn := some 249 } : State).randIn = some 249 ∧ State.reset.randIn = none := ⟨rfl, rfl⟩

theorem witness_AddToIndexFlagsOverflow : (14 : RegIdx) ≠ VF ∧ (15 : RegIdx) = VF := by decide

theorem witness_DecimalStoreWritesThreeDigits :
    ({ State.reset with i := 4093 } : State).ea 2 = 4095 ∧ ({ State.reset with i := 4094 } : State).ea 2 > 4095 := by
  decide

theorem witness_RegisterStoreWritesThroughX :
    ({ State.reset with i := 4080 } : State).ea (15 : RegIdx).val = 4095 ∧
    ({ State.reset with i := 4095 } : State).ea (0 : RegIdx).val = 4095 ∧
    ({ State.reset with i := 4095 } : State).ea (1 : RegIdx).val > 4095 := by decide

/-- `X = 0` with `I` at its greatest; the last legal base; the first illegal one. -/
theorem witness_RegisterLoadStopsBeforeX :
    ((0 : RegIdx) = 0 ∨ ({ State.reset with i := 0xFFFF } : State).ea (0 : RegIdx).val - 1 ≤ 4095) ∧
    ({ State.reset with i := 4095 } : State).ea (1 : RegIdx).val - 1 ≤ 4095 ∧
    ((1 : RegIdx) ≠ 0 ∧ ({ State.reset with i := 4096 } : State).ea (1 : RegIdx).val - 1 > 4095) := by decide

theorem witness_LoadAfterStoreRestoresAllButTheLast : ∃ s t u : State, s.ea (15 : RegIdx).val ≤ 4095 ∧
    exec (.storeRegs 15) s = .next t ∧ u.memory = t.memory ∧ u.i = s.i :=
  ⟨{ State.reset with i := 4080 }, _, { State.reset with i := 4080, memory := _ }, by decide, rfl, rfl, rfl⟩

/-- The last two registers, at the last address that can be fetched from. -/
theorem witness_StoredRegistersAreFetchedBigEndian : ∃ (s : State) (x r q : RegIdx) (t u : State), s.ea x.val ≤ 4095 ∧
    q.val = r.val + 1 ∧ q ≤ x ∧ exec (.storeRegs x) s = .next t ∧ u.memory = t.memory ∧ u.pc.toNat = s.ea r.val :=
  ⟨{ State.reset with i := 4080 }, 15, 14, 15, _, { State.reset with pc := 4094, memory := _ }, by decide, rfl, by decide,
    rfl, rfl, by decide⟩

/-- No row with `I` at its greatest; one row and fifteen rows that end at 4095; one row past it. -/
theorem witness_DrawFlipsTheSpriteAndReportsCollision :
    ((0 : Fin 16) = 0 ∨ ({ State.reset with i := 0xFFFF } : State).ea (0 : Fin 16).val - 1 ≤ 4095) ∧
    ({ State.reset with i := 4095 } : State).ea (1 : Fin 16).val - 1 ≤ 4095 ∧
    ({ State.reset with i := 4081 } : State).ea (15 : Fin 16).val - 1 = 4095 ∧
    ((1 : Fin 16) ≠ 0 ∧ ({ State.reset with i := 4096 } : State).ea (1 : Fin 16).val - 1 > 4095) := by decide

theorem witness_KeySkipsTestTheLevel : ((withRegs State.reset [(1, 15)]).reg 1).toNat ≤ 15 ∧
    ((withRegs State.reset [(1, 16)]).reg 1).toNat > 15 := by decide +kernel

/-- The highest key alone, and no key. -/
theorem witness_KeyWaitTakesTheLowestKeyOrRewinds :
    (({ State.reset with keyboard := 0x8000 } : State).keyboard.getLsbD (15 : Fin 16).val = true ∧
      ∀ j : Fin 16, j < 15 → ({ State.reset with keyboard := 0x8000 } : State).keyboard.getLsbD j.val = false) ∧
    ∀ k : Fin 16, State.reset.keyboard.getLsbD k.val = false := by decide

theorem witness_TimerTickCountsDown :
    ({ faulted with pending := [.timerTick, .reset] } : State).pending = .timerTick :: [.reset] := rfl

theorem witness_TicksRunTheCountersDown : ({ State.reset with pending := [.timerTick, .timerTick] } : State).pending =
    List.replicate 2 .timerTick ++ [] := rfl

theorem witness_DelayReadAfterOneTick : ∃ s t u : State, exec (.ldDTVx 4) s = .next t ∧ s.reg 4 ≠ 0 ∧
    exec (.ldVxDT 4) t.timerTick = .next u :=
  ⟨withRegs State.reset [(4, 1)], _, _, rfl, by decide +kernel, rfl⟩

/-- At a word that decodes to an instruction, and at one that decodes to none. -/
theorem witness_TickAndCycleCommute :
    (∀ i, decode ((ready 0x00E0).wordAt (ready 0x00E0).pc.toNat) = .ok i → usesTimers i = false) ∧
    (∀ i, decode (State.reset.wordAt State.reset.pc.toNat) = .ok i → usesTimers i = false) := by
  have h1 : decode ((ready 0x00E0).wordAt (ready 0x00E0).pc.toNat) = .ok .cls := by decide +kernel
  have h2 : decode (State.reset.wordAt State.reset.pc.toNat) = .error (.unknownOpcode 0) := by decide +kernel
  rw [h1, h2]
  refine ⟨fun i h => ?_, fun i h => ?_⟩ <;> cases h
  rfl

/-- The lowest and the highest address the load port may write. -/
theorem witness_LoadRequestWritesExactlyOneByte : State.reset.loadOpen = true ∧
    ({ State.reset with pending := [.load 0x200 1, .load 0xFFF 2] } : State).pending = .load 0x200 1 :: [.load 0xFFF 2] ∧
    0x200 ≤ (0x200 : BitVec 12).toNat ∧ 0x200 ≤ (0xFFF : BitVec 12).toNat := ⟨rfl, rfl, by decide, by decide⟩

theorem witness_EveryStepKeepsTheFontParameter : ∃ t, step { faulted with pending := [.reset] } = .next t := ⟨_, rfl⟩

theorem witness_FinalStateStandsUnderEveryInterleaving :
    ({ ready 0x1200 with pending := [.timerTick, .cpuCycle 0xFFFF none, .timerTick] } : State).Finished ∧
    ∀ r ∈ ({ ready 0x1200 with pending := [.timerTick, .cpuCycle 0xFFFF none, .timerTick] } : State).pending,
      (∃ keysIn rnd, r = .cpuCycle keysIn rnd) ∨ r = .timerTick := by
  refine ⟨finished_ready, fun r hr => ?_⟩
  simp at hr
  rcases hr with rfl | rfl | rfl
  · exact .inr rfl
  · exact .inl ⟨_, _, rfl⟩
  · exact .inr rfl

/-- A halted core whose `pc` is at a self-jump: the case the end of a run shuts out. -/
theorem witness_faulted_at_self_jump : ({ ready 0x1200 with halted := true } : State).halted = true ∧
    ¬ ({ ready 0x1200 with halted := true } : State).Finished := ⟨rfl, fun h => absurd h.1 (by simp [State.Safe])⟩

/-- The longest image that fits. -/
theorem witness_LoadRequestsReachTheBootState : imageWellFormed (List.replicate 3584 0xFF) = true := by
  unfold imageWellFormed
  rw [List.length_replicate]
  decide

end Sys2Proof.Tests
end

/-! The font parameter (spec/00_scope.md R7, log entry 4). It is held inside `memory`, and memory is replaced in three
places only: by the stores of the execute phase, by the load port and by reset. What the execute phase can do to memory,
and the ways a CPU cycle can go, are said once here, and the parameter is followed through them. -/

namespace Sys2Proof.Machine

/-! ### Memory under the shared operations -/

@[simp] theorem State.skipIf_memory (s : State) (c : Bool) : (s.skipIf c).memory = s.memory := by
  cases c <;> rfl

@[simp] theorem State.loadFirst_memory (s : State) (n : Nat) : (s.loadFirst n).memory = s.memory := by
  rw [State.loadFirst_eq]

/-- A fault writes no memory (R178). -/
theorem raiseFault_keeps_memory {f : Fault} {s t : State} (h : raiseFault f s = .next t) : t.memory = s.memory := by
  cases h
  rfl

/-! ### Memory under the execute phase -/

/-- `t` has the memory of `s`, or that memory with some bytes, all of existing addresses, stored from `I` up. -/
def StoresFromIndex (s t : State) : Prop :=
  t.memory = s.memory ∨
    ∃ bs : List Byte, s.ea 0 + bs.length ≤ memBytes ∧ t.memory = s.memory.writeBytes (s.ea 0) bs

theorem StoresFromIndex.font {s t : State} (h : StoresFromIndex s t) : t.memory.font = s.memory.font := by
  obtain h | ⟨bs, -, h⟩ := h <;> simp [h]

/-- A guarded access does to memory what its state change does when the addresses exist, and otherwise nothing. -/
theorem guardAccess_stores {n : Nat} {k : State → State} {s t : State}
    (hk : n = 0 ∨ s.i.toNat + n - 1 ≤ 4095 → StoresFromIndex s (k s)) (h : guardAccess n k s = .next t) :
    StoresFromIndex s t := by
  rcases guardAccess_cases n k s with ⟨hin, e⟩ | ⟨-, -, e⟩ <;> rw [e] at h
  · cases h
    exact hk hin
  · exact .inl (raiseFault_keeps_memory h)

/-- All the execute phase can do to memory (R56, R133, R134), whatever the instruction. The cases that store are `FX33`
and `FX55`; in every other case memory is left alone. -/
theorem exec_stores {i : Instr} {s t : State} (h : exec i s = .next t) : StoresFromIndex s t := by
  cases i with
  | ldB x =>
    simp only [exec, execLdB] at h
    refine guardAccess_stores (fun hin => .inr ⟨decimalDigits (s.reg x), ?_, rfl⟩) h
    simp only [State.ea, decimalDigits, List.length_cons, List.length_nil, memBytes]
    omega
  | storeRegs x =>
    simp only [exec, execStoreRegs] at h
    refine guardAccess_stores (fun hin => .inr ⟨s.regsTo x, ?_, rfl⟩) h
    simp only [State.ea, State.regsTo_length, memBytes]
    omega
  | loadRegs x =>
    simp only [exec, execLoadRegs] at h
    exact guardAccess_stores (fun _ => .inl (s.loadFirst_memory x.val)) h
  | drw x y n =>
    simp only [exec, execDrw] at h
    exact guardAccess_stores (fun _ => .inl rfl) h
  | ret =>
    simp only [exec, execRet] at h
    split at h
    · exact .inl (raiseFault_keeps_memory h)
    · cases h
      exact .inl rfl
  | call nnn =>
    simp only [exec, execCall] at h
    split at h
    · cases h
      exact .inl rfl
    · exact .inl (raiseFault_keeps_memory h)
  | skp x | sknp x =>
    simp only [exec, execSkp, execSknp] at h
    split at h
    · exact .inl (raiseFault_keeps_memory h)
    · cases h
      exact .inl (State.skipIf_memory s _)
  | ldVxK x =>
    simp only [exec, execLdVxK] at h
    split at h <;> cases h <;> exact .inl rfl
  | seImm | sneImm | seReg | sneReg =>
    cases h
    exact .inl (State.skipIf_memory s _)
  | cls | jp | ldImm | addImm | ldReg | orReg | andReg | xorReg | addReg | sub | shr | subn | shl | ldI | jpV0 | rnd
  | ldVxDT | ldDTVx | ldSTVx | addI | ldF =>
    cases h
    exact .inl rfl

/-! ### The ways a CPU cycle can go -/

/-- All a CPU cycle can do (R73): nothing while halted (R179), the fetch fault (R173), the execute phase of the word's
instruction, or the report of a word of no row (R76). -/
theorem step_cycle_cases {s : State} {keysIn : BitVec 16} {rnd : Option (Fin Config.randMod)} {rest : List Request}
    (h : s.NextIsCycle keysIn rnd rest) :
    (s.halted = true ∧ step s = .next { s with pending := rest }) ∨
    (s.halted = false ∧ s.pc.toNat > 4094 ∧
      step s = .next (({ s with pending := rest }.sampleInputs keysIn rnd).latchFault .fetchOutOfBounds 0 s.pc)) ∨
    (s.halted = false ∧ s.pc.toNat ≤ 4094 ∧ ∃ i, decode (s.wordAt s.pc.toNat) = .ok i ∧
      step s = exec i (s.started keysIn rnd rest (s.wordAt s.pc.toNat))) ∨
    (s.halted = false ∧ s.pc.toNat ≤ 4094 ∧ (∀ i, decode (s.wordAt s.pc.toNat) ≠ .ok i) ∧
      step s = .next (s.started keysIn rnd rest (s.wordAt s.pc.toNat)).unknownOpcode) := by
  by_cases hh : s.halted = true
  · exact .inl ⟨hh, (step_of_nextIsCycle h).trans (cpuCycle_halted (s := { s with pending := rest }) hh keysIn rnd)⟩
  · rw [Bool.not_eq_true] at hh
    by_cases hp : s.pc.toNat ≤ 4094
    · rw [step_fetched hh h hp]
      rcases runWord_cases (s.wordAt s.pc.toNat) (s.started keysIn rnd rest (s.wordAt s.pc.toNat)) with
        ⟨i, hi, e⟩ | ⟨hn, e⟩
      · exact .inr (.inr (.inl ⟨hh, hp, i, hi, e⟩))
      · exact .inr (.inr (.inr ⟨hh, hp, hn, e⟩))
    · exact .inr (.inl ⟨hh, by omega, step_notFetched hh h (by omega)⟩)

/-! ### The font parameter under each kind of request -/

/-- A CPU cycle keeps the font parameter, a store over the font area included. -/
theorem step_cycle_keeps_font {s t : State} {keysIn : BitVec 16} {rnd : Option (Fin Config.randMod)}
    {rest : List Request} (hc : s.NextIsCycle keysIn rnd rest) (h : step s = .next t) :
    t.memory.font = s.memory.font := by
  rcases step_cycle_cases hc with ⟨-, e⟩ | ⟨-, -, e⟩ | ⟨-, -, i, -, e⟩ | ⟨-, -, -, e⟩ <;> rw [e] at h
  · cases h
    rfl
  · cases h
    rfl
  · exact (exec_stores h).font
  · cases h
    rfl

theorem loadPort_keeps_font {addr : BitVec 12} {data : Byte} {s t : State} (h : loadPort addr data s = .next t) :
    t.memory.font = s.memory.font := by
  rcases loadPort_cases addr data s with ⟨-, -, e⟩ | ⟨-, e⟩ | ⟨-, -, e⟩ <;> rw [e] at h <;> cases h
  exact Memory.write_font _ _ _

/-- Settles O52, by the kind of the next request: a CPU cycle stores bytes at most, a timer tick writes no memory, a
reset starts again from the machine's own font table, and the load port writes one byte. -/
theorem everyStepKeepsTheFontParameter : Obligations.EveryStepKeepsTheFontParameter := by
  intro s t h
  cases hr : s.nextRequest with
  | cpuCycle keysIn rnd => exact step_cycle_keeps_font (nextIsCycle_of_nextRequest hr) h
  | timerTick | reset =>
    rw [step_eq_serve, hr] at h
    cases h
    rfl
  | load addr data =>
    rw [step_eq_serve, hr] at h
    exact loadPort_keeps_font (s := s.popRequest) h

end Sys2Proof.Machine

/-! What the execute phase can do, said once for all instructions (spec/10_state.md section 1, spec/60_exceptions.md R171,
R178): it completes, writing within the instruction's parts, or it takes a fault. The state's rules about what is written,
about `pc` and about the stack are read off from that; after them come the invariant and the load port. -/

namespace Sys2Proof.Machine

/-! ### Frames of the updates that have no name of their own -/

/-- Writing `sp`, the stack and `pc` together, as a call and a return do (R100, R102). -/
theorem frame_stack {l : List Part} (s : State) (n : Fin 17) (st : Vector Word 16) (a : Word) (hp : Part.pc ∈ l)
    (hs : Part.stack ∈ l) : Frame l s { s with sp := n, stack := st, pc := a } where
  regs _ _ := rfl
  pc h := absurd hp h
  index _ := rfl
  stack h := absurd hs h
  memory _ _ := rfl
  display _ := rfl
  delay _ := rfl
  sound _ := rfl
  latch _ := ⟨rfl, rfl, rfl, rfl, rfl⟩
  draws _ := rfl
  inputs := ⟨rfl, rfl, rfl⟩
  outputs := rfl
  requests := rfl
  parameter := rfl

/-- Counting a random draw (log entry 2). -/
theorem frame_draws {l : List Part} (s : State) (n : Nat) (h : Part.draws ∈ l) : Frame l s { s with draws := n } := by
  constructor
  case draws => exact fun hn => absurd h hn
  all_goals simp [State.reg]

/-- Replacing the register file by one that agrees with it outside the listed registers. -/
theorem frame_regFile {l : List Part} (s : State) (v : Vector Byte 16)
    (h : ∀ r : RegIdx, Part.reg r ∉ l → v[r] = s.v[r]) : Frame l s { s with v := v } := by
  constructor
  case regs => exact h
  all_goals simp

/-- Loading the first `n` registers writes those registers only (R135). -/
theorem frame_loadFirst {l : List Part} (s : State) {n : Nat} (hn : n ≤ 16)
    (h : ∀ r : RegIdx, r.val < n → Part.reg r ∈ l) : Frame l s (s.loadFirst n) := by
  rw [State.loadFirst_eq]
  refine frame_regFile s _ fun r hr => ?_
  have hr' : ¬ r.val < n := fun hlt => hr (h r hlt)
  have := s.reg_loadFirst r n hn
  rwa [if_neg hr'] at this

/-- Latching a fault writes the latch and the status only (R178). -/
theorem frame_latchFault {l : List Part} (s : State) (f : Fault) (h : Part.latch ∈ l) :
    Frame l s (s.latchFault f s.statusOut.word s.statusOut.addr) := by
  obtain ⟨-, -, -, -, -, hf⟩ := raised_latchFault f s
  exact hf.mono (by simpa using h)

/-! ### The ways the instructions with more than one outcome can go -/

/-- All `00EE` can do (R100, R176). -/
theorem exec_ret_cases (s : State) :
    (∃ k : Fin 16, s.sp.val = k.val + 1 ∧ exec .ret s = .next { s with sp := k.castSucc, pc := s.stack[k] }) ∨
      (s.sp = 0 ∧ exec .ret s = raiseFault .stackUnderflow s) := by
  by_cases h : s.sp = 0
  · exact .inr ⟨h, dif_pos h⟩
  · have hpos : s.sp.val ≠ 0 := fun e => h (Fin.ext e)
    exact .inl ⟨⟨s.sp.val - 1, by omega⟩, by simp only; omega, dif_neg h⟩

/-- All `2NNN` can do (R102, R175). -/
theorem exec_call_cases (nnn : BitVec 12) (s : State) :
    (∃ k : Fin 16, s.sp.val = k.val ∧
      exec (.call nnn) s = .next { s with sp := k.succ, stack := s.stack.set k s.pc, pc := zextAddr nnn }) ∨
      (s.sp = 16 ∧ exec (.call nnn) s = raiseFault .stackOverflow s) := by
  by_cases h : s.sp.val < 16
  · exact .inl ⟨⟨s.sp.val, h⟩, rfl, dif_pos h⟩
  · exact .inr ⟨Fin.ext (show s.sp.val = 16 by omega), dif_neg h⟩

/-- All a skip instruction can do (R107, R177). -/
theorem exec_skip_cases {i : Instr} (hi : isSkip i = true) (s : State) :
    (∃ c, exec i s = .next (s.skipIf c)) ∨
      (Part.latch ∈ writtenParts i ∧ exec i s = raiseFault .keyIndexOutOfRange s) := by
  cases i with
  | seImm | sneImm | seReg | sneReg => exact .inl ⟨_, rfl⟩
  | skp x | sknp x =>
    by_cases h : (s.reg x).toNat > 15
    · exact .inr ⟨by simp [writtenParts], if_pos h⟩
    · exact .inl ⟨_, if_neg h⟩
  | _ => cases hi

/-- No key is found exactly when none is pressed (R152). -/
theorem State.lowestKey_eq_none_iff (s : State) : s.lowestKey = none ↔ s.keyboard = 0 := by
  simp only [State.lowestKey, List.find?_eq_none, List.mem_range, State.keyDown, Bool.not_eq_true]
  constructor
  · intro h
    refine BitVec.eq_of_getLsbD_eq fun k hk => ?_
    rw [h k hk, BitVec.ofNat_eq_ofNat, BitVec.getLsbD_zero]
  · intro h k _
    rw [h, BitVec.ofNat_eq_ofNat, BitVec.getLsbD_zero]

/-- All `FX0A` can do (R152). -/
theorem exec_ldVxK_cases (x : RegIdx) (s : State) :
    (∃ k, s.lowestKey = some k ∧ exec (.ldVxK x) s = .next (s.setV x (BitVec.ofNat 8 k))) ∨
      (s.keyboard = 0 ∧ exec (.ldVxK x) s = .next (s.setPc (s.pc - 2))) := by
  cases h : s.lowestKey with
  | some k => exact .inl ⟨k, rfl, by simp only [exec, execLdVxK, h]⟩
  | none => exact .inr ⟨s.lowestKey_eq_none_iff.1 h, by simp only [exec, execLdVxK, h]⟩

/-! ### All the execute phase can do -/

/-- The parts an instruction may write when it completes: all of its parts but the fault latch. -/
def completedParts (i : Instr) : List Part := (writtenParts i).filter (· ≠ .latch)

@[simp] theorem mem_completedParts {p : Part} {i : Instr} : p ∈ completedParts i ↔ p ∈ writtenParts i ∧ p ≠ .latch := by
  simp [completedParts]

theorem completedParts_subset (i : Instr) : completedParts i ⊆ writtenParts i := List.filter_subset_self _

/-- In `s` the instruction completes, its writes within its parts and the latch left alone; or it takes a fault, and then
it is an instruction that R171 lists as able to. -/
def CompletesOrFaults (i : Instr) (s : State) : Prop :=
  (∃ t, exec i s = .next t ∧ Frame (completedParts i) s t) ∨
    (Part.latch ∈ writtenParts i ∧ ∃ f, f ≠ .fetchOutOfBounds ∧ exec i s = raiseFault f s)

theorem CompletesOrFaults.of_frame {i : Instr} {s t : State} (h : exec i s = .next t) (hf : Frame (completedParts i) s t) :
    CompletesOrFaults i s :=
  .inl ⟨t, h, hf⟩

theorem CompletesOrFaults.of_raiseFault {i : Instr} {s : State} {f : Fault} (hl : Part.latch ∈ writtenParts i)
    (hf : f ≠ .fetchOutOfBounds) (h : exec i s = raiseFault f s) : CompletesOrFaults i s :=
  .inr ⟨hl, f, hf, h⟩

theorem CompletesOrFaults.of_guardAccess {i : Instr} {n : Nat} {k : State → State} {s : State}
    (hl : Part.latch ∈ writtenParts i) (hi : exec i s = guardAccess n k s) (hk : Frame (completedParts i) s (k s)) :
    CompletesOrFaults i s := by
  rcases guardAccess_cases n k s with ⟨-, e⟩ | ⟨-, -, e⟩
  · exact .of_frame (hi.trans e) hk
  · exact .of_raiseFault hl (by decide) (hi.trans e)

theorem CompletesOrFaults.of_isSkip {i : Instr} (hi : isSkip i = true) (hp : Part.pc ∈ completedParts i) (s : State) :
    CompletesOrFaults i s := by
  obtain ⟨c, e⟩ | ⟨hl, e⟩ := exec_skip_cases hi s
  · exact .of_frame e (frame_skipIf s c hp)
  · exact .of_raiseFault hl (by decide) e

/-- Every instruction answers in every state, in one of the two ways. -/
theorem exec_cases (i : Instr) (s : State) : CompletesOrFaults i s := by
  cases i with
  | cls => exact .of_frame rfl (frame_setDisplay s _ (by simp [writtenParts]))
  | ret =>
    obtain ⟨k, -, e⟩ | ⟨-, e⟩ := exec_ret_cases s
    · exact .of_frame e (frame_stack s _ s.stack _ (by simp [writtenParts]) (by simp [writtenParts]))
    · exact .of_raiseFault (by simp [writtenParts]) (by decide) e
  | call nnn =>
    obtain ⟨k, -, e⟩ | ⟨-, e⟩ := exec_call_cases nnn s
    · exact .of_frame e (frame_stack s _ _ _ (by simp [writtenParts]) (by simp [writtenParts]))
    · exact .of_raiseFault (by simp [writtenParts]) (by decide) e
  | jp | jpV0 => exact .of_frame rfl (frame_setPc s _ (by simp [writtenParts]))
  | seImm | sneImm | seReg | sneReg | skp | sknp => exact .of_isSkip rfl (by simp [writtenParts]) s
  | ldImm | addImm | ldReg | orReg | andReg | xorReg | ldVxDT =>
    exact .of_frame rfl (frame_setV s _ (by simp [writtenParts]))
  | addReg | sub | shr | subn | shl =>
    exact .of_frame rfl
      ((frame_setV s _ (by simp [writtenParts])).trans (frame_setV _ _ (by simp [writtenParts])))
  | rnd =>
    exact .of_frame rfl
      ((frame_setV s _ (by simp [writtenParts])).trans (frame_draws _ _ (by simp [writtenParts])))
  | ldI | ldF => exact .of_frame rfl (frame_setI s _ (by simp [writtenParts]))
  | addI =>
    exact .of_frame rfl
      ((frame_setV s _ (by simp [writtenParts])).trans (frame_setI _ _ (by simp [writtenParts])))
  | drw =>
    refine .of_guardAccess (by simp [writtenParts]) (by rw [exec, execDrw]) ?_
    exact (frame_setV s _ (by simp [writtenParts])).trans (frame_setDisplay _ _ (by simp [writtenParts]))
  | ldVxK x =>
    obtain ⟨k, -, e⟩ | ⟨-, e⟩ := exec_ldVxK_cases x s
    · exact .of_frame e (frame_setV s _ (by simp [writtenParts]))
    · exact .of_frame e (frame_setPc s _ (by simp [writtenParts]))
  | ldDTVx => exact .of_frame rfl (frame_setDelay s _ (by simp [writtenParts]))
  | ldSTVx => exact .of_frame rfl (frame_setSound s _ (by simp [writtenParts]))
  | ldB =>
    refine .of_guardAccess (by simp [writtenParts]) (by rw [exec, execLdB]) ?_
    exact frame_setMemory s (Memory.writeBytes_font _ _ _) (by simp [writtenParts])
  | storeRegs =>
    refine .of_guardAccess (by simp [writtenParts]) (by rw [exec, execStoreRegs]) ?_
    exact (frame_setMemory s (Memory.writeBytes_font _ _ _) (by simp [writtenParts])).trans
      (frame_setI _ _ (by simp [writtenParts]))
  | loadRegs x =>
    refine .of_guardAccess (by simp [writtenParts]) (by rw [exec, execLoadRegs]) ?_
    exact frame_loadFirst s (by omega) fun r hr => by simpa [writtenParts] using hr

theorem exec_answers (i : Instr) (s : State) : ∃ t, exec i s = .next t := by
  obtain ⟨t, e, -⟩ | ⟨-, f, -, e⟩ := exec_cases i s
  · exact ⟨t, e⟩
  · exact ⟨_, e⟩

/-! ### What instructions write -/

/-- Settles O17: an instruction that completes writes within its parts, and a fault writes the latch, which is then one
of them. -/
theorem everyInstructionWritesOnlyItsParts : Obligations.EveryInstructionWritesOnlyItsParts := by
  intro i s t h
  obtain ⟨t', e, hf⟩ | ⟨hl, f, -, e⟩ := exec_cases i s <;> rw [e] at h <;> cases h
  · exact hf.mono (completedParts_subset i)
  · exact frame_latchFault s f hl

/-- The instructions whose parts hold `VF` are those that write it as a flag or have it as destination (R21). -/
theorem flag_or_destination_of_mem_writtenParts {i : Instr} (h : Part.reg VF ∈ writtenParts i) :
    writesFlag i = true ∨ i ∈ [.ldVxDT VF, .ldVxK VF] ∨ (∃ nn, i ∈ [.ldImm VF nn, .addImm VF nn, .rnd VF nn]) ∨
      (∃ y, i ∈ [.ldReg VF y, .orReg VF y, .andReg VF y, .xorReg VF y]) := by
  cases i with
  | addReg | sub | shr | subn | shl | drw | addI => exact .inl rfl
  | ldVxDT x | ldVxK x =>
    obtain rfl : VF = x := by simpa [writtenParts] using h
    exact .inr (.inl (by simp))
  | ldImm x nn | addImm x nn | rnd x nn =>
    obtain rfl : VF = x := by simpa [writtenParts] using h
    exact .inr (.inr (.inl ⟨nn, by simp⟩))
  | ldReg x y | orReg x y | andReg x y | xorReg x y =>
    obtain rfl : VF = x := by simpa [writtenParts] using h
    exact .inr (.inr (.inr ⟨y, by simp⟩))
  | loadRegs x =>
    have hx : VF < x := by simpa [writtenParts] using h
    exact absurd x.isLt (Nat.not_lt.2 hx)
  | _ => simp [writtenParts] at h

/-- Settles O18: an instruction that changes `VF` has it among its parts. -/
theorem flagRegisterWrittenOnlyAsFlagOrDestination : Obligations.FlagRegisterWrittenOnlyAsFlagOrDestination := by
  intro i s t h hne
  have hframe := everyInstructionWritesOnlyItsParts i s t h
  exact flag_or_destination_of_mem_writtenParts (by_contra fun hm => hne (hframe.regs VF hm))

/-- A skip instruction keeps `pc` or advances it by 2 (R107). -/
theorem pc_of_isSkip {i : Instr} {s t : State} (hi : isSkip i = true) (h : exec i s = .next t) :
    t.pc = s.pc ∨ t.pc = s.pc + 2 := by
  obtain ⟨c, e⟩ | ⟨-, e⟩ := exec_skip_cases hi s <;> rw [e] at h <;> cases h
  · cases c
    · exact .inl rfl
    · exact .inr rfl
  · exact .inl rfl

/-- Settles O19, by the instructions that have `pc` among their parts; a fault leaves it as the fetch left it. -/
theorem pcChangesOnlyAsListed : Obligations.PcChangesOnlyAsListed := by
  intro i s t h
  have hframe := everyInstructionWritesOnlyItsParts i s t h
  cases i with
  | jp nnn =>
    cases h
    exact .inr (.inl ⟨nnn, .inl rfl, rfl⟩)
  | call nnn =>
    obtain ⟨k, -, e⟩ | ⟨-, e⟩ := exec_call_cases nnn s <;> rw [e] at h <;> cases h
    · exact .inr (.inl ⟨nnn, .inr rfl, rfl⟩)
    · exact .inl rfl
  | ret =>
    obtain ⟨k, hk, e⟩ | ⟨-, e⟩ := exec_ret_cases s <;> rw [e] at h <;> cases h
    · exact .inr (.inr (.inl ⟨k, rfl, hk, rfl⟩))
    · exact .inl rfl
  | jpV0 nnn =>
    cases h
    exact .inr (.inr (.inr (.inl ⟨nnn, rfl, rfl⟩)))
  | seImm | sneImm | seReg | sneReg | skp | sknp =>
    obtain hpc | hpc := pc_of_isSkip rfl h
    · exact .inl hpc
    · exact .inr (.inr (.inr (.inr (.inl ⟨rfl, hpc⟩))))
  | ldVxK x =>
    obtain ⟨k, -, e⟩ | ⟨hk, e⟩ := exec_ldVxK_cases x s <;> rw [e] at h <;> cases h
    · exact .inl rfl
    · exact .inr (.inr (.inr (.inr (.inr ⟨x, rfl, hk, rfl⟩))))
  | _ => exact .inl (hframe.pc (by simp [writtenParts]))

/-- All an instruction can do to the stack and `sp` (R25, R26): nothing, a push or a pop. -/
theorem exec_stack_cases {i : Instr} {s t : State} (h : exec i s = .next t) :
    (t.sp = s.sp ∧ t.stack = s.stack) ∨
    (∃ nnn, ∃ k : Fin 16, i = .call nnn ∧ s.sp.val = k.val ∧ t.sp.val = k.val + 1 ∧
      ∀ j : Fin 16, t.stack[j] = if k = j then s.pc else s.stack[j]) ∨
    (i = .ret ∧ t.sp.val + 1 = s.sp.val ∧ t.stack = s.stack) := by
  have hframe := everyInstructionWritesOnlyItsParts i s t h
  cases i with
  | call nnn =>
    obtain ⟨k, hk, e⟩ | ⟨-, e⟩ := exec_call_cases nnn s <;> rw [e] at h <;> cases h
    · exact .inr (.inl ⟨nnn, k, rfl, hk, rfl, fun j => by simp [Vector.getElem_set, Fin.ext_iff]⟩)
    · exact .inl ⟨rfl, rfl⟩
  | ret =>
    obtain ⟨k, hk, e⟩ | ⟨-, e⟩ := exec_ret_cases s <;> rw [e] at h <;> cases h
    · exact .inr (.inr ⟨rfl, hk.symm, rfl⟩)
    · exact .inl ⟨rfl, rfl⟩
  | _ => exact .inl (hframe.stack (by simp [writtenParts]))

/-- Settles O20: an entry differs only where a call pushed, which is at `sp`. -/
theorem stackMovesOnlyByCallAndReturn : Obligations.StackMovesOnlyByCallAndReturn := by
  intro i s t h
  obtain ⟨hsp, hst⟩ | ⟨nnn, k, rfl, hk, hsp, hst⟩ | ⟨rfl, hsp, hst⟩ := exec_stack_cases h
  · exact ⟨.inl hsp, fun j hj => absurd (by rw [hst]) hj⟩
  · refine ⟨.inr (.inl ⟨nnn, rfl, by omega⟩), fun j hj => ⟨⟨nnn, rfl⟩, ?_⟩⟩
    have hkj : k = j := by_contra fun hne => hj ((hst j).trans (if_neg hne))
    rw [hk, hkj]
  · exact ⟨.inr (.inr ⟨rfl, hsp⟩), fun j hj => absurd (by rw [hst]) hj⟩

/-- Settles O9, by the kind of the next request: a cycle answers because every instruction does, and the load port says
which loads it refuses. -/
theorem everyStepAnswersUnlessTheHostMisusesTheLoadPort :
    Obligations.EveryStepAnswersUnlessTheHostMisusesTheLoadPort := by
  intro s
  cases hr : s.nextRequest with
  | cpuCycle keysIn rnd =>
    left
    rcases step_cycle_cases (nextIsCycle_of_nextRequest hr) with ⟨-, e⟩ | ⟨-, -, e⟩ | ⟨-, -, i, -, e⟩ | ⟨-, -, -, e⟩ <;>
      rw [e]
    · exact ⟨_, rfl⟩
    · exact ⟨_, rfl⟩
    · exact exec_answers i _
    · exact ⟨_, rfl⟩
  | timerTick | reset => exact .inl ⟨_, by rw [step_eq_serve, hr]; rfl⟩
  | load addr data =>
    have hstep : step s = loadPort addr data s.popRequest := by rw [step_eq_serve, hr]; rfl
    rcases loadPort_cases addr data s.popRequest with ⟨-, -, e⟩ | ⟨ho, e⟩ | ⟨ho, ha, e⟩
    · exact .inl ⟨_, hstep.trans e⟩
    · exact .inr (.inl ⟨addr, data, rfl, ho, hstep.trans e⟩)
    · exact .inr (.inr ⟨addr, data, rfl, ho, ha, hstep.trans e⟩)

/-! ### The invariant (R38) -/

/-- Settles O5, row by row of R37's table. -/
theorem resetStateHoldsTheSpecifiedValues : Obligations.ResetStateHoldsTheSpecifiedValues := by
  intro font
  refine ⟨?regs, rfl, rfl, rfl, ?stack, ?glyphs, fun a ha => resetByte_above font ha, rfl, ?cells, rfl, rfl, rfl, rfl,
    rfl, rfl⟩
  case regs => simp [State.reg, State.resetWith]
  case stack => simp [State.resetWith]
  case glyphs => exact fun k => resetByte_font font k.isLt
  case cells =>
    intro x y
    by_cases hy : y < 32 <;> simp [Display.pixel, State.resetWith, hy]

theorem State.resetWith_inv (font : Config.Font) : (State.resetWith font).Inv where
  memory := State.resetWith_memory_wf font
  pc := (by decide : (0x200#16).toNat ≤ 0x10FE)
  stack := by simp [State.resetWith]
  latch := ⟨nofun, nofun, nofun, fun _ => ⟨rfl, rfl, rfl⟩⟩

/-- Settles O7: memory lists nothing, the stack is zero and nothing is latched, whatever the font. -/
theorem invariantAtReset : Obligations.InvariantAtReset :=
  ⟨State.resetWith_inv defaultFont, State.resetWith_inv⟩

/-- The invariant does not speak of the counters, the tone ticks, the draws and the requests. -/
theorem State.Inv.of_unconstrained {s : State} (h : s.Inv) (delay sound : Byte) (toneTicks draws : Nat)
    (pending : List Request) :
    ({ s with delay := delay, sound := sound, toneTicks := toneTicks, draws := draws, pending := pending } : State).Inv :=
  ⟨h.memory, h.pc, h.stack, ⟨h.latch.shown, h.latch.isFault, h.latch.closed, h.latch.clear⟩⟩

/-- With the load port closed, taking a fault keeps the invariant, whatever is latched. -/
theorem State.Inv.latchFault {s : State} (h : s.Inv) (hc : s.loadOpen = false) (f : Fault) (w a : Word) :
    (s.latchFault f w a).Inv where
  memory := h.memory
  pc := h.pc
  stack := h.stack
  latch := ⟨fun _ => rfl, fun _ => ⟨f, rfl⟩, fun _ => hc, nofun⟩

/-- While the core runs, its inputs, its status and the load window may change freely, and `pc` within its bound. -/
theorem State.Inv.of_running {s : State} (h : s.Inv) (hh : s.halted = false) (keysIn : BitVec 16)
    (rnd : Option (Fin Config.randMod)) (opn : Bool) (st : Status) {a : Word} (ha : a.toNat ≤ 0x10FE) :
    ({ s with keyboard := keysIn, randIn := rnd, loadOpen := opn, statusOut := st, pc := a } : State).Inv where
  memory := h.memory
  pc := ha
  stack := h.stack
  latch := ⟨fun e => absurd (hh.symm.trans e) nofun, h.latch.isFault, fun e => absurd (hh.symm.trans e) nofun,
    h.latch.clear⟩

/-- The latch stays consistent where a frame keeps it. -/
theorem State.LatchConsistent.of_frame {l : List Part} {s t : State} (h : s.LatchConsistent) (hf : Frame l s t)
    (hl : Part.latch ∉ l) : t.LatchConsistent := by
  obtain ⟨hhalted, hcode, hword, haddr, hstatus⟩ := hf.latch hl
  obtain ⟨-, -, hopen⟩ := hf.inputs
  constructor <;> rw [hhalted]
  · rw [hstatus, hcode, hword, haddr]
    exact h.shown
  · rw [hcode]
    exact h.isFault
  · rw [hopen]
    exact h.closed
  · rw [hcode, hword, haddr]
    exact h.clear

theorem zextAddr_toNat (nnn : BitVec 12) : (zextAddr nnn).toNat = nnn.toNat := by
  have := nnn.isLt
  simp [zextAddr]; omega

theorem zextByte_toNat (b : Byte) : (zextByte b).toNat = b.toNat := by
  have := b.isLt
  simp [zextByte]; omega

/-- The bound `0x10FE` is that of `BNNN` (R108): `0xFFF` and the largest byte. -/
theorem exec_keeps_pc_bound {i : Instr} {s t : State} (h : exec i s = .next t) (hinv : s.Inv) (hlo : 2 ≤ s.pc.toNat)
    (hhi : s.pc.toNat ≤ 4096) : t.pc.toNat ≤ 0x10FE := by
  rcases pcChangesOnlyAsListed i s t h with e | ⟨nnn, -, e⟩ | ⟨k, -, -, e⟩ | ⟨nnn, -, e⟩ | ⟨-, e⟩ | ⟨x, -, -, e⟩ <;> rw [e]
  · omega
  · have := nnn.isLt
    rw [zextAddr_toNat]; omega
  · have := hinv.stack k
    omega
  · have := nnn.isLt
    have := (s.reg 0).isLt
    rw [BitVec.toNat_add, zextAddr_toNat, zextByte_toNat]; omega
  · bv_omega
  · bv_omega

/-- A stacked address is the `pc` of a call (R100), past the word that the call was fetched from. -/
theorem exec_keeps_stack_bound {i : Instr} {s t : State} (h : exec i s = .next t) (hinv : s.Inv)
    (hhi : s.pc.toNat ≤ 4096) (k : Fin 16) : t.stack[k].toNat ≤ 4096 := by
  obtain ⟨-, e⟩ | ⟨-, j, -, -, -, e⟩ | ⟨-, -, e⟩ := exec_stack_cases h <;> rw [e]
  · exact hinv.stack k
  · split
    · exact hhi
    · exact hinv.stack k
  · exact hinv.stack k

theorem StoresFromIndex.wf {s t : State} (h : StoresFromIndex s t) (hs : s.memory.wf = true) : t.memory.wf = true := by
  obtain e | ⟨bs, hbs, e⟩ := h <;> rw [e]
  · exact hs
  · exact Memory.writeBytes_wf bs hs hbs

/-- The execute phase keeps the invariant, from any state that a fetch can lead to. -/
theorem exec_keeps_inv {i : Instr} {s t : State} (h : exec i s = .next t) (hinv : s.Inv) (hc : s.loadOpen = false)
    (hlo : 2 ≤ s.pc.toNat) (hhi : s.pc.toNat ≤ 4096) : t.Inv := by
  obtain ⟨t', e, hf⟩ | ⟨-, f, -, e⟩ := exec_cases i s
  · obtain rfl : t' = t := by rw [e] at h; cases h; rfl
    exact {
      memory := (exec_stores h).wf hinv.memory
      pc := exec_keeps_pc_bound h hinv hlo hhi
      stack := exec_keeps_stack_bound h hinv hhi
      latch := hinv.latch.of_frame hf (by simp) }
  · rw [e] at h
    cases h
    exact hinv.latchFault hc f _ _

/-- The fetch keeps the invariant. -/
theorem State.Inv.started {s : State} (h : s.Inv) (hh : s.halted = false) (keysIn : BitVec 16)
    (rnd : Option (Fin Config.randMod)) (rest : List Request) (w : Word) (hp : s.pc.toNat ≤ 4094) :
    (s.started keysIn rnd rest w).Inv :=
  (h.of_running hh keysIn rnd false ⟨.ok, w, s.pc⟩ (a := s.pc + 2) (by bv_omega)).of_unconstrained _ _ _ _ rest

theorem step_cycle_keeps_inv {s t : State} {keysIn : BitVec 16} {rnd : Option (Fin Config.randMod)}
    {rest : List Request} (hinv : s.Inv) (hc : s.NextIsCycle keysIn rnd rest) (h : step s = .next t) : t.Inv := by
  rcases step_cycle_cases hc with ⟨-, e⟩ | ⟨hh, -, e⟩ | ⟨hh, hp, i, -, e⟩ | ⟨hh, hp, -, e⟩ <;> rw [e] at h
  · cases h
    exact hinv.of_unconstrained _ _ _ _ rest
  · cases h
    exact ((hinv.of_running hh keysIn rnd false _ hinv.pc).of_unconstrained _ _ _ _ rest).latchFault rfl _ 0 s.pc
  · have hpc : (s.started keysIn rnd rest (s.wordAt s.pc.toNat)).pc = s.pc + 2 := rfl
    exact exec_keeps_inv h (hinv.started hh keysIn rnd rest _ hp) rfl (by rw [hpc]; bv_omega) (by rw [hpc]; bv_omega)
  · cases h
    have hstarted := hinv.started hh keysIn rnd rest (s.wordAt s.pc.toNat) hp
    exact hstarted.of_running hh _ _ _ _ hstarted.pc

theorem loadPort_keeps_inv {addr : BitVec 12} {data : Byte} {s t : State} (hinv : s.Inv)
    (h : loadPort addr data s = .next t) : t.Inv := by
  rcases loadPort_cases addr data s with ⟨-, -, e⟩ | ⟨-, e⟩ | ⟨-, -, e⟩ <;> rw [e] at h <;> cases h
  exact ⟨Memory.write_wf data hinv.memory addr.isLt, hinv.pc, hinv.stack,
    ⟨hinv.latch.shown, hinv.latch.isFault, hinv.latch.closed, hinv.latch.clear⟩⟩

/-- Settles O8, by the kind of the next request. The bounds of `pc` and of the stacked addresses need each other: a return
takes `pc` from the stack and a call puts it there. -/
theorem everyStepKeepsTheInvariant : Obligations.EveryStepKeepsTheInvariant := by
  intro s t hinv h
  have hpop : s.popRequest.Inv := hinv.of_unconstrained _ _ _ _ s.pending.tail
  cases hr : s.nextRequest with
  | cpuCycle keysIn rnd => exact step_cycle_keeps_inv hinv (nextIsCycle_of_nextRequest hr) h
  | timerTick =>
    rw [step_eq_serve, hr] at h
    cases h
    exact hpop.of_unconstrained _ _ _ _ _
  | reset =>
    rw [step_eq_serve, hr] at h
    cases h
    exact (State.resetWith_inv s.memory.font).of_unconstrained _ _ _ _ _
  | load addr data =>
    rw [step_eq_serve, hr] at h
    exact loadPort_keeps_inv hpop h

/-! ### The program load port (R34, R202) -/

/-- A load request that the host may make writes its byte and is taken off the list; nothing else changes. -/
theorem step_load {s : State} {addr : BitVec 12} {data : Byte} {rest : List Request}
    (hp : s.pending = .load addr data :: rest) (ho : s.loadOpen = true) (ha : 0x200 ≤ addr.toNat) :
    step s = .next { s with memory := s.memory.write addr.toNat data, pending := rest } := by
  have hstep : step s = loadPort addr data { s with pending := rest } := by
    simp [step, State.nextRequest, State.popRequest, hp, serve]
  rcases loadPort_cases addr data { s with pending := rest } with ⟨-, -, e⟩ | ⟨hc, -⟩ | ⟨-, hlt, -⟩
  · exact hstep.trans e
  · exact absurd (ho.symm.trans hc) nofun
  · omega

/-- Settles O51: the next state of the load, read at the address written and at the others. -/
theorem loadRequestWritesExactlyOneByte : Obligations.LoadRequestWritesExactlyOneByte := by
  intro s addr data rest hp ho ha
  exact ⟨_, step_load hp ho ha, Memory.read_write_same _ _ _, fun a hne => Memory.read_write_ne _ _ hne,
    Memory.write_font _ _ _, rfl⟩

/-- The load requests of bytes within the program region, served one by one, write them at ascending addresses. -/
theorem core_run_loadRequests : ∀ (bs : List Byte) {s : State} {a : Nat}, s.loadOpen = true → 0x200 ≤ a →
    a + bs.length ≤ memBytes → s.pending = loadRequestsFrom a bs →
    core.run bs.length s = .next { s with memory := s.memory.writeBytes a bs, pending := [] }
  | [], s, a, _, _, _, hp => by
    have hp' : s.pending = [] := hp
    rw [← hp']
    rfl
  | b :: bs, s, a, ho, ha, hlen, hp => by
    simp only [List.length_cons, memBytes] at hlen
    have haddr : (BitVec.ofNat 12 a).toNat = a := by
      rw [BitVec.toNat_ofNat]; omega
    have hstep := step_load hp ho (by omega)
    rw [haddr] at hstep
    rw [List.length_cons, core_run_next _ hstep]
    exact core_run_loadRequests bs ho (by omega) (by simp only [memBytes]; omega) rfl

/-- Settles O50, by induction over the image. -/
theorem loadRequestsReachTheBootState : Obligations.LoadRequestsReachTheBootState := by
  intro font image hfit
  have hlen : image.length ≤ maxImageBytes := by simpa [imageWellFormed] using hfit
  have hrun := core_run_loadRequests image (s := { State.resetWith font with pending := loadRequestsFrom programBase image })
    rfl (le_refl 0x200) (by simp only [maxImageBytes, memBytes, programBase] at hlen ⊢; omega) rfl
  rw [hrun, State.boot, List.take_of_length_le hlen]
  rfl

end Sys2Proof.Machine

/-! Memory between invocations (spec/20_memory.md R58, R59, R64, R65): which addresses the two storing instructions write,
what a later fetch finds there, and that a value left in `delay` is what the next tick counts down. -/

namespace Sys2Proof.Machine

/-! ### The two storing instructions -/

/-- All `FX33` can do (R133): its three bytes exist and are stored, or it takes the fault. -/
theorem exec_ldB_cases (x : RegIdx) (s : State) :
    (s.ea 2 ≤ 4095 ∧
      exec (.ldB x) s = .next (s.setMemory (s.memory.writeBytes (s.ea 0) (decimalDigits (s.reg x))))) ∨
      (s.ea 2 > 4095 ∧ exec (.ldB x) s = raiseFault .memoryOutOfBounds s) := by
  rw [exec, execLdB]
  by_cases h : s.ea 2 ≤ 4095
  · exact .inl ⟨h, guardAccess_ok (.inr h)⟩
  · exact .inr ⟨Nat.not_le.1 h, guardAccess_bad (by decide) (Nat.not_le.1 h)⟩

/-- All `FX55` can do (R134): its `X + 1` bytes exist, are stored and `I` moves past them, or it takes the fault. -/
theorem exec_storeRegs_cases (x : RegIdx) (s : State) :
    (s.ea x.val ≤ 4095 ∧ exec (.storeRegs x) s = .next
      ((s.setMemory (s.memory.writeBytes (s.ea 0) (s.regsTo x))).setI (s.i + BitVec.ofNat 16 (x.val + 1)))) ∨
      (s.ea x.val > 4095 ∧ exec (.storeRegs x) s = raiseFault .memoryOutOfBounds s) := by
  rw [exec, execStoreRegs]
  by_cases h : s.ea x.val ≤ 4095
  · exact .inl ⟨h, guardAccess_ok (.inr h)⟩
  · exact .inr ⟨Nat.not_le.1 h, guardAccess_bad (Nat.succ_ne_zero _) (Nat.not_le.1 h)⟩

/-- An address that reads differently after a write of several bytes is one of those written. -/
theorem Memory.mem_range_of_read_writeBytes_ne {m : Memory} {a c : Nat} {bs : List Byte}
    (h : (m.writeBytes a bs).read c ≠ m.read c) : a ≤ c ∧ c < a + bs.length := by
  by_contra hout
  exact h (Memory.read_writeBytes_outside bs (by omega))

/-- Settles O21: an instruction other than the two storing ones keeps memory by its frame; those two differ only where they
store, and a fault stores nothing. -/
theorem memoryWrittenOnlyAtListedAddresses : Obligations.MemoryWrittenOnlyAtListedAddresses := by
  intro i s t a h hne
  have hframe := everyInstructionWritesOnlyItsParts i s t h
  cases i with
  | ldB x =>
    obtain ⟨-, e⟩ | ⟨-, e⟩ := exec_ldB_cases x s <;> rw [e] at h <;> cases h
    · obtain ⟨hlo, hhi⟩ := Memory.mem_range_of_read_writeBytes_ne hne
      exact .inl ⟨x, rfl, hlo, Nat.le_of_lt_succ hhi⟩
    · exact absurd rfl hne
  | storeRegs x =>
    obtain ⟨-, e⟩ | ⟨-, e⟩ := exec_storeRegs_cases x s <;> rw [e] at h <;> cases h
    · obtain ⟨hlo, hhi⟩ := Memory.mem_range_of_read_writeBytes_ne hne
      rw [State.regsTo_length] at hhi
      exact .inr ⟨x, rfl, hlo, Nat.le_of_lt_succ hhi⟩
    · exact absurd rfl hne
  | _ => exact absurd (hframe.memory (by simp [writtenParts]) a) hne

/-! ### Stores seen by a later fetch (R58, R64) -/

/-- After an `FX55` that completes, register `r` up to `VX` stands at `I + r` (R134). -/
theorem read_of_exec_storeRegs {s t : State} {x r : RegIdx} (hin : s.ea x.val ≤ 4095)
    (h : exec (.storeRegs x) s = .next t) (hr : r ≤ x) : t.memory.read (s.ea r.val) = s.reg r := by
  obtain ⟨-, e⟩ | ⟨hout, -⟩ := exec_storeRegs_cases x s
  · rw [e] at h
    cases h
    have hlen : r.val < (s.regsTo x).length := by
      rw [State.regsTo_length]
      exact Nat.lt_succ_of_le hr
    exact (Memory.read_writeBytes_at (s.regsTo x) hlen).trans (s.regsTo_getD hr)
  · omega

/-- A `pc` with two bytes in memory fetches the big-endian word there (R56, R58), whether it is odd or even (R55). -/
theorem State.fetchWord_of_le {s : State} (h : s.pc.toNat ≤ 4094) : s.fetchWord = some (s.wordAt s.pc.toNat) :=
  if_neg (Nat.not_lt.2 h)

/-- Settles O39: both bytes of the fetched word are bytes that the `FX55` stored. -/
theorem storedRegistersAreFetchedBigEndian : Obligations.StoredRegistersAreFetchedBigEndian := by
  intro s x r q t u hin hq hqx h hmem hpc
  have hqx' : q.val ≤ x.val := hqx
  have hr : r ≤ x := Fin.le_def.2 (by omega)
  have hnext : s.ea r.val + 1 = s.ea q.val := by rw [hq]; rfl
  have hle : u.pc.toNat ≤ 4094 := by
    simp only [State.ea] at hin hpc
    omega
  rw [State.fetchWord_of_le hle, State.wordAt, hpc, hmem, hnext, read_of_exec_storeRegs hin h hr,
    read_of_exec_storeRegs hin h hqx]

/-! ### The delay counter between invocations (R65) -/

/-- Settles O47: `FX15` leaves the register's value in `delay`, the tick counts it down and `FX07` reads the result. -/
theorem delayReadAfterOneTick : Obligations.DelayReadAfterOneTick := by
  intro s x y t u hset hne hread
  cases hset
  cases hread
  have hpos : (s.reg x).toNat ≠ 0 := fun e => hne (BitVec.eq_of_toNat_eq e)
  rw [State.reg_setV_same, State.timerTick_delay, State.setDelay_delay, countDown_toNat]
  omega

end Sys2Proof.Machine

/-! The decoder and the encoder (spec/30_encoding.md R70 to R72, R75, R78, R80): they are inverse to each other, and a
word decodes exactly when it fits a row of the opcode map. Each proof goes by the formats of R72: two fixed words, `NNN`,
`XNN`, `XYN`, and `XY` and `X` with their low fields fixed. -/

namespace Sys2Proof

/-! ### The decoder reads back what the encoder wrote -/

/-- The operands stand in the fields of their format, and the fixed fields select the row (R72, R75). -/
theorem decode_encode (i : Instr) : decode (encode i) = .ok i := by
  cases i with
  | cls | ret => rfl
  | jp | call | ldI | jpV0 => simp [encode, decode]
  | seImm | sneImm | ldImm | addImm | rnd => simp [encode, decode]
  | seReg | sneReg | drw => simp [encode, decode]
  | ldReg | orReg | andReg | xorReg | addReg | sub | shr | subn | shl => simp [encode, decode, decodeFamily8]
  | skp | sknp => simp [encode, decode, decodeFamilyE]
  | ldVxDT | ldVxK | ldDTVx | ldSTVx | addI | ldF | ldB | storeRegs | loadRegs =>
    simp [encode, decode, decodeFamilyF]

/-- The two bytes of a word decode to what the word decodes to, whatever follows them (R70). -/
theorem decodeBytes_of_decode {w : Word} {i : Instr} (h : decode w = .ok i) (rest : List Byte) :
    decodeBytes (hiByte w :: loByte w :: rest) = .ok (i, rest) := by
  rw [decodeBytes, wordOfBytes_hi_lo, h]

theorem decodeTableWord_of_decode {w : Word} {i : Instr} (h : decode w = .ok i) :
    decodeTableWord 16 w.toNat = some i := by
  rw [decodeTableWord, if_pos (Nat.le_refl 16), BitVec.ofNat_toNat, BitVec.setWidth_eq, decodeBytes_of_decode h]

/-- Settles O3, by the format of the instruction's word; its bytes and its table word hold the same word. -/
theorem decodeAfterEncodeIsIdentity : Obligations.DecodeAfterEncodeIsIdentity := fun i =>
  ⟨decode_encode i, decodeBytes_of_decode (decode_encode i), decodeTableWord_of_decode (decode_encode i)⟩

/-! ### A word is known from its fixed fields and its operands -/

section
variable {w : Word} {f n : BitVec 4} {nn : Byte}

theorem encodeNNN_of_fields (hf : fieldF w = f) : encodeNNN f (fieldNNN w) = w :=
  hf ▸ encodeNNN_fields w

theorem encodeXNN_of_fields (hf : fieldF w = f) (hnn : fieldNN w = nn) : encodeXNN f (fieldX w) nn = w :=
  hf ▸ hnn ▸ encodeXNN_fields w

theorem encodeXYN_of_fields (hf : fieldF w = f) (hn : fieldN w = n) : encodeXYN f (fieldX w) (fieldY w) n = w :=
  hf ▸ hn ▸ encodeXYN_fields w

end

/-! ### The encoder writes back what the decoder read, family by family (R75) -/

theorem encode_of_decodeFamily0 {w : Word} {i : Instr} (h : decodeFamily0 w = .ok i) : encode i = w := by
  unfold decodeFamily0 at h
  split at h
  next hw =>
    cases h
    exact hw.symm
  next =>
    split at h <;> cases h
    exact Eq.symm ‹_›

theorem encode_of_decodeFamily8 {w : Word} {i : Instr} (hf : fieldF w = 0x8#4) (h : decodeFamily8 w = .ok i) :
    encode i = w := by
  unfold decodeFamily8 at h
  split at h <;> cases h <;> exact encodeXYN_of_fields hf ‹_›

theorem encode_of_decodeFamilyE {w : Word} {i : Instr} (hf : fieldF w = 0xE#4) (h : decodeFamilyE w = .ok i) :
    encode i = w := by
  unfold decodeFamilyE at h
  split at h <;> cases h <;> exact encodeXNN_of_fields hf ‹_›

theorem encode_of_decodeFamilyF {w : Word} {i : Instr} (hf : fieldF w = 0xF#4) (h : decodeFamilyF w = .ok i) :
    encode i = w := by
  unfold decodeFamilyF at h
  split at h <;> cases h <;> exact encodeXNN_of_fields hf ‹_›

/-- Settles O4, by the word's family: `h_1` is family 0 and `h_16` family F. -/
theorem encodeAfterDecodeIsIdentity : Obligations.EncodeAfterDecodeIsIdentity := by
  intro w i h
  unfold decode at h
  split at h
  case h_1 => exact encode_of_decodeFamily0 h
  case h_9 hf => exact encode_of_decodeFamily8 hf h
  case h_15 hf => exact encode_of_decodeFamilyE hf h
  case h_16 =>
    refine encode_of_decodeFamilyF ?_ h
    clear h
    generalize fieldF w = f at *
    decide +revert
  case h_2 hf | h_3 hf | h_11 hf | h_12 hf =>
    cases h
    exact encodeNNN_of_fields hf
  case h_4 hf | h_5 hf | h_7 hf | h_8 hf | h_13 hf =>
    cases h
    exact encodeXNN_of_fields hf rfl
  case h_14 hf =>
    cases h
    exact encodeXYN_of_fields hf rfl
  case h_6 hf | h_10 hf =>
    split at h <;> cases h
    exact encodeXYN_of_fields hf ‹_›

/-! ### A word fits a row exactly when it is the word of an instruction of that row (R78) -/

/-- The word of an instruction fits the instruction's own row. -/
theorem encode_fits_opcodeRow (i : Instr) : (opcodeRow i).fits (encode i) = true := by
  cases i with
  | cls | ret => rfl
  | jp nnn | call nnn | ldI nnn | jpV0 nnn => exact fits_NNN _ _ nnn
  | seImm x nn | sneImm x nn | ldImm x nn | addImm x nn | rnd x nn => exact fits_XNN _ _ x nn
  | drw x y n => exact fits_XYN _ _ x y _
  | seReg x y | sneReg x y | ldReg x y | orReg x y | andReg x y | xorReg x y | addReg x y | sub x y | shr x y
  | subn x y | shl x y => exact fits_XY _ _ x y _
  | skp x | sknp x | ldVxDT x | ldVxK x | ldDTVx x | ldSTVx x | addI x | ldF x | ldB x | storeRegs x | loadRegs x =>
    exact fits_X _ _ x _

section
variable {m : String} {w : Word} {f n : BitVec 4} {nn : Byte}

theorem fieldF_of_fits_F000 (h : OpcodeRow.fits ⟨m, encodeNNN f 0, 0xF000⟩ w = true) : fieldF w = f := by
  have e : encodeNNN (fieldF w) 0 = encodeNNN f 0 := (and_F000 w).symm.trans (eq_of_beq h)
  simpa using congrArg fieldF e

theorem encodeXYN_of_fits_F00F (h : OpcodeRow.fits ⟨m, encodeXYN f 0 0 n, 0xF00F⟩ w = true) :
    encodeXYN f (fieldX w) (fieldY w) n = w := by
  have e : encodeXYN (fieldF w) 0 0 (fieldN w) = encodeXYN f 0 0 n := (and_F00F w).symm.trans (eq_of_beq h)
  exact encodeXYN_of_fields (by simpa using congrArg fieldF e) (by simpa using congrArg fieldN e)

theorem encodeXNN_of_fits_F0FF (h : OpcodeRow.fits ⟨m, encodeXNN f 0 nn, 0xF0FF⟩ w = true) :
    encodeXNN f (fieldX w) nn = w := by
  have e : encodeXNN (fieldF w) 0 (fieldNN w) = encodeXNN f 0 nn := (and_F0FF w).symm.trans (eq_of_beq h)
  exact encodeXNN_of_fields (by simpa using congrArg fieldF e) (by simpa using congrArg fieldNN e)

theorem eq_of_fits_FFFF {v : Word} (h : OpcodeRow.fits ⟨m, v, 0xFFFF⟩ w = true) : v = w := by
  have e : w &&& BitVec.allOnes 16 = v := eq_of_beq h
  rw [← e, BitVec.and_allOnes]

end

/-- The instruction of the same row as `i` whose operands are the fields of `w` (R71). -/
def Instr.withFields (w : Word) : Instr → Instr
  | .cls => .cls
  | .ret => .ret
  | .jp _ => .jp (fieldNNN w)
  | .call _ => .call (fieldNNN w)
  | .seImm _ _ => .seImm (fieldX w) (fieldNN w)
  | .sneImm _ _ => .sneImm (fieldX w) (fieldNN w)
  | .seReg _ _ => .seReg (fieldX w) (fieldY w)
  | .ldImm _ _ => .ldImm (fieldX w) (fieldNN w)
  | .addImm _ _ => .addImm (fieldX w) (fieldNN w)
  | .ldReg _ _ => .ldReg (fieldX w) (fieldY w)
  | .orReg _ _ => .orReg (fieldX w) (fieldY w)
  | .andReg _ _ => .andReg (fieldX w) (fieldY w)
  | .xorReg _ _ => .xorReg (fieldX w) (fieldY w)
  | .addReg _ _ => .addReg (fieldX w) (fieldY w)
  | .sub _ _ => .sub (fieldX w) (fieldY w)
  | .shr _ _ => .shr (fieldX w) (fieldY w)
  | .subn _ _ => .subn (fieldX w) (fieldY w)
  | .shl _ _ => .shl (fieldX w) (fieldY w)
  | .sneReg _ _ => .sneReg (fieldX w) (fieldY w)
  | .ldI _ => .ldI (fieldNNN w)
  | .jpV0 _ => .jpV0 (fieldNNN w)
  | .rnd _ _ => .rnd (fieldX w) (fieldNN w)
  | .drw _ _ _ => .drw (fieldX w) (fieldY w) (fieldN w).toFin
  | .skp _ => .skp (fieldX w)
  | .sknp _ => .sknp (fieldX w)
  | .ldVxDT _ => .ldVxDT (fieldX w)
  | .ldVxK _ => .ldVxK (fieldX w)
  | .ldDTVx _ => .ldDTVx (fieldX w)
  | .ldSTVx _ => .ldSTVx (fieldX w)
  | .addI _ => .addI (fieldX w)
  | .ldF _ => .ldF (fieldX w)
  | .ldB _ => .ldB (fieldX w)
  | .storeRegs _ => .storeRegs (fieldX w)
  | .loadRegs _ => .loadRegs (fieldX w)

theorem opcodeRow_withFields (i : Instr) (w : Word) : opcodeRow (i.withFields w) = opcodeRow i := by
  cases i <;> rfl

/-- A word that fits the row of `i` is the word of that row's instruction with the word's own fields. -/
theorem encode_withFields_of_fits {w : Word} {i : Instr} (h : (opcodeRow i).fits w = true) :
    encode (i.withFields w) = w := by
  cases i with
  | cls | ret => exact eq_of_fits_FFFF h
  | jp | call | ldI | jpV0 => exact encodeNNN_of_fields (fieldF_of_fits_F000 h)
  | seImm | sneImm | ldImm | addImm | rnd => exact encodeXNN_of_fields (fieldF_of_fits_F000 h) rfl
  | drw => exact encodeXYN_of_fields (fieldF_of_fits_F000 h) rfl
  | seReg | sneReg | ldReg | orReg | andReg | xorReg | addReg | sub | shr | subn | shl =>
    exact encodeXYN_of_fits_F00F h
  | skp | sknp | ldVxDT | ldVxK | ldDTVx | ldSTVx | addI | ldF | ldB | storeRegs | loadRegs =>
    exact encodeXNN_of_fits_F0FF h

/-- The constructors of `Instr` stand in the order of the rows. -/
theorem opcodeRow_mem (i : Instr) : opcodeRow i ∈ opcodeRows :=
  List.mem_of_getElem? (i := i.ctorIdx) (by cases i <;> rfl)

/-- A word that fits a row decodes to an instruction of that row. -/
theorem exists_decode_of_fits {w : Word} {r : OpcodeRow} (hr : r ∈ opcodeRows) (h : r.fits w = true) :
    ∃ i, decode w = .ok i ∧ opcodeRow i = r := by
  obtain ⟨i, -, rfl⟩ := List.mem_map.1 hr
  refine ⟨i.withFields w, ?_, opcodeRow_withFields i w⟩
  rw [← decode_encode (i.withFields w), encode_withFields_of_fits h]

theorem fits_opcodeRow_of_decode {w : Word} {i : Instr} (h : decode w = .ok i) : (opcodeRow i).fits w = true :=
  encodeAfterDecodeIsIdentity w i h ▸ encode_fits_opcodeRow i

/-- Settles O2: an instruction's own word fits its row; a word that fits a row decodes to an instruction of that row,
and to that alone, so it cannot fit two. -/
theorem decodingFollowsTheOpcodeMap : Obligations.DecodingFollowsTheOpcodeMap := by
  refine ⟨rfl, fun w i h => ⟨fits_opcodeRow_of_decode h, opcodeRow_mem i⟩, fun w => ⟨?_, ?_⟩, ?_⟩
  · rintro ⟨i, h⟩
    exact ⟨opcodeRow i, opcodeRow_mem i, fits_opcodeRow_of_decode h⟩
  · rintro ⟨r, hr, h⟩
    obtain ⟨i, hi, -⟩ := exists_decode_of_fits hr h
    exact ⟨i, hi⟩
  · intro w r hr r' hr' h h'
    obtain ⟨i, hi, rfl⟩ := exists_decode_of_fits hr h
    obtain ⟨j, hj, rfl⟩ := exists_decode_of_fits hr' h'
    cases hi.symm.trans hj
    rfl

/-! ### Fixed words -/

/-- Settles O1, by running the decoder on the words. -/
theorem wordsWrittenFromTheSpecDecode : Obligations.WordsWrittenFromTheSpecDecode := by
  unfold Obligations.WordsWrittenFromTheSpecDecode
  decide

end Sys2Proof

namespace Sys2Proof.Machine

/-! ### The step that runs a decoded word (R73) -/

theorem runWord_of_decode {w : Word} {i : Instr} (h : decode w = .ok i) (s : State) : runWord w s = exec i s := by
  rw [runWord, h]

/-- Settles O10: the cycle fetches the word at `pc` and runs what it decodes to. -/
theorem stepRunsTheDecodedInstruction : Obligations.StepRunsTheDecodedInstruction := by
  intro s keysIn rnd rest i hh hc hp hi
  rw [step_fetched hh hc hp, runWord_of_decode hi]

end Sys2Proof.Machine

/-! Control transfer (spec/40_control_flow.md): the call and the return as inverse uses of the stack, the jumps, and the
skips that compare. The four skips are one lemma, since each of them is `State.skipIf` of its own condition. -/

namespace Sys2Proof.Machine

/-! ### Call and return (R100, R102) -/

/-- Settles O23, by the two ways a call can go, each of which rules out the other's premise. -/
theorem callPushesTheReturnAddress : Obligations.CallPushesTheReturnAddress := by
  intro s nnn
  obtain ⟨k, hk, e⟩ | ⟨hfull, e⟩ := exec_call_cases nnn s <;> rw [e]
  · refine ⟨fun k' hk' => ?_, fun hfull => absurd (hk.symm.trans (congrArg Fin.val hfull)) k.isLt.ne⟩
    obtain rfl : k = k' := Fin.ext (hk.symm.trans hk')
    refine ⟨_, rfl, by simp, fun j hj => ?_, rfl, zextAddr_toNat nnn,
      frame_stack s _ _ _ (by simp) (by simp)⟩
    have hkj : k.val ≠ j.val := fun e => hj (Fin.ext e.symm)
    exact Vector.getElem_set_ne k.isLt j.isLt hkj
  · exact ⟨fun k hk => absurd (hk.symm.trans (congrArg Fin.val hfull)) k.isLt.ne, fun _ => raiseFault_spec _ s⟩

/-- Settles O24, by the two ways a return can go, each of which rules out the other's premise. -/
theorem returnPopsTheReturnAddress : Obligations.ReturnPopsTheReturnAddress := by
  intro s
  obtain ⟨k, hk, e⟩ | ⟨hempty, e⟩ := exec_ret_cases s <;> rw [e]
  · refine ⟨fun k' hk' => ?_, fun hempty => by simp [hempty] at hk⟩
    obtain rfl : k = k' := Fin.ext (by omega)
    exact ⟨_, rfl, rfl, rfl, rfl, frame_stack s _ s.stack _ (by simp) (by simp)⟩
  · exact ⟨fun k hk => by simp [hempty] at hk, fun _ => raiseFault_spec _ s⟩

/-- Settles O25: the entry that the return reads is the one that the call wrote. -/
theorem returnUndoesCall : Obligations.ReturnUndoesCall := by
  intro s nnn t u hfree hcall husp hust
  obtain ⟨t', e, hpush, -, hsp, -, -⟩ := (callPushesTheReturnAddress s nnn).1 ⟨s.sp.val, hfree⟩ rfl
  cases e.symm.trans hcall
  obtain ⟨r, hret, hpc, hrsp, -, -⟩ := (returnPopsTheReturnAddress u).1 ⟨s.sp.val, hfree⟩ (by rw [husp, hsp])
  exact ⟨r, hret, by rw [hpc, hust, hpush], Fin.ext hrsp⟩

/-! ### Jumps (R101, R108) -/

/-- The target of `BNNN` is at most `0x10FE`, so 16 bits hold it unreduced (R108). -/
theorem zextAddr_add_zextByte_toNat (nnn : BitVec 12) (b : Byte) :
    (zextAddr nnn + zextByte b).toNat = nnn.toNat + b.toNat := by
  rw [BitVec.toNat_add, zextAddr_toNat, zextByte_toNat]
  omega

/-- Settles O22: a jump writes `pc` only. -/
theorem jumpsSetThePc : Obligations.JumpsSetThePc := by
  intro s nnn
  constructor
  · exact ⟨_, rfl, zextAddr_toNat nnn, frame_setPc s _ (by simp)⟩
  · exact ⟨_, rfl, zextAddr_add_zextByte_toNat nnn (s.reg 0), frame_setPc s _ (by simp)⟩

/-! ### Skips (R103 to R107) -/

/-- An instruction that is a skip on `p` adds 2 to `pc` exactly when `p` holds and writes nothing else (R107). -/
theorem exec_skipIf_spec {i : Instr} {s : State} {p : Prop} [Decidable p]
    (h : exec i s = .next (s.skipIf (decide p))) :
    ∃ t, exec i s = .next t ∧ t.pc = (if p then s.pc + 2 else s.pc) ∧ Frame [.pc] s t :=
  ⟨_, h, by rw [State.skipIf_pc]; simp only [decide_eq_true_eq], frame_skipIf s _ (by simp)⟩

/-- Settles O26: two of the four skip on equality and two on its negation. -/
theorem compareSkips : Obligations.CompareSkips := by
  intro s x y nn
  refine ⟨exec_skipIf_spec rfl, ?_, exec_skipIf_spec rfl, ?_⟩
  · simpa only [ite_not] using exec_skipIf_spec (i := .sneImm x nn) (s := s) (p := ¬ s.reg x = nn) rfl
  · simpa only [ite_not] using exec_skipIf_spec (i := .sneReg x y) (s := s) (p := ¬ s.reg x = s.reg y) rfl

end Sys2Proof.Machine

/-! Register load, arithmetic, logic, shifts and random (spec/41_alu.md). Six instructions write one register; the five
that also write a flag write `VF` first and `VX` after it (R123), which is said once in `exec_flagThenResult_spec`, so
each of them is left with what its result reads once the flag is in `VF` (R124). -/

namespace Sys2Proof.Machine

/-! ### A result and no flag (R110 to R115) -/

/-- An instruction that writes `b` to `VX` and stops there. -/
theorem exec_setV_spec {i : Instr} {s : State} {x : RegIdx} {b : Byte} (h : exec i s = .next (s.setV x b)) :
    ∃ t, exec i s = .next t ∧ t.reg x = b ∧ Frame [.reg x] s t :=
  ⟨_, h, s.reg_setV_same x b, frame_setV s b (by simp)⟩

/-- Settles O27: each of the six writes `VX` alone, and a byte sum is reduced modulo 256 (R122). -/
theorem loadAddAndLogicResults : Obligations.LoadAddAndLogicResults := by
  intro s x y nn
  refine ⟨exec_setV_spec rfl, ?_, exec_setV_spec rfl, exec_setV_spec rfl, exec_setV_spec rfl, exec_setV_spec rfl⟩
  obtain ⟨t, e, hx, hf⟩ := exec_setV_spec (i := .addImm x nn) (s := s) rfl
  exact ⟨t, e, by rw [hx, BitVec.toNat_add], hf⟩

/-! ### A flag and then a result (R116 to R120, R123) -/

/-- An instruction that writes the flag `f` to `VF` and then `b` to `VX`: with `X = F` the result wins. -/
theorem exec_flagThenResult_spec {i : Instr} {s : State} {x : RegIdx} {f b : Byte}
    (h : exec i s = .next ((s.setV VF f).setV x b)) :
    ∃ t, exec i s = .next t ∧ t.reg x = b ∧ (x ≠ VF → t.reg VF = f) ∧ Frame [.reg x, .reg VF] s t := by
  refine ⟨_, h, State.reg_setV_same _ x b, fun hx => ?_,
    (frame_setV s f (by simp)).trans (frame_setV _ b (by simp))⟩
  rw [State.reg_setV_ne _ b hx.symm, State.reg_setV_same]

/-- Settles O28: both registers are read before the flag is written, so the sum is of the old values. -/
theorem addSetsTheCarry : Obligations.AddSetsTheCarry := by
  intro s x y
  obtain ⟨t, e, hx, hflag, hf⟩ := exec_flagThenResult_spec (i := .addReg x y) (s := s) rfl
  exact ⟨t, e, by rw [hx, BitVec.toNat_add], fun hne => (hflag hne).trans (flag_decide _), hf⟩

/-! ### The two subtractions (R117, R119) -/

theorem greaterFlag_eq_ite (a b : Byte) : greaterFlag a b = if a > b then 1 else 0 := flag_decide (a.toNat > b.toNat)

/-- `V[a] - V[b]` as the registers stand once `VF` holds `[V[a] > V[b]]`: what `8XY5` writes for `a = X`, `b = Y` and
`8XY7` for `a = Y`, `b = X`. -/
def State.flaggedDiff (s : State) (a b : RegIdx) : Byte :=
  (s.setV VF (greaterFlag (s.reg a) (s.reg b))).reg a - (s.setV VF (greaterFlag (s.reg a) (s.reg b))).reg b

theorem exec_sub (x y : RegIdx) (s : State) :
    exec (.sub x y) s = .next ((s.setV VF (greaterFlag (s.reg x) (s.reg y))).setV x (s.flaggedDiff x y)) := rfl

theorem exec_subn (x y : RegIdx) (s : State) :
    exec (.subn x y) s = .next ((s.setV VF (greaterFlag (s.reg y) (s.reg x))).setV x (s.flaggedDiff y x)) := rfl

/-! The four columns of R124: which of the two operands is the flag just written. -/

theorem State.flaggedDiff_of_ne (s : State) {a b : RegIdx} (ha : a ≠ VF) (hb : b ≠ VF) :
    s.flaggedDiff a b = s.reg a - s.reg b := by
  rw [State.flaggedDiff, s.reg_setV_ne _ ha, s.reg_setV_ne _ hb]

theorem State.flaggedDiff_VF_left (s : State) {b : RegIdx} (hb : b ≠ VF) :
    s.flaggedDiff VF b = (if s.reg VF > s.reg b then 1 else 0) - s.reg b := by
  rw [State.flaggedDiff, s.reg_setV_same, s.reg_setV_ne _ hb, greaterFlag_eq_ite]

theorem State.flaggedDiff_VF_right (s : State) {a : RegIdx} (ha : a ≠ VF) :
    s.flaggedDiff a VF = s.reg a - (if s.reg a > s.reg VF then 1 else 0) := by
  rw [State.flaggedDiff, s.reg_setV_same, s.reg_setV_ne _ ha, greaterFlag_eq_ite]

theorem State.flaggedDiff_self (s : State) (a : RegIdx) : s.flaggedDiff a a = 0 := BitVec.sub_self _

/-- Settles O29, column by column of R124; the minuend is `VX`. -/
theorem subtractSetsStrictlyGreater : Obligations.SubtractSetsStrictlyGreater := by
  intro s x y
  obtain ⟨t, e, hx, hflag, hf⟩ := exec_flagThenResult_spec (exec_sub x y s)
  rw [greaterFlag_eq_ite] at hflag
  refine ⟨t, e, hf, fun hxF hyF => ?_, ?_, ?_, ?_⟩
  · exact ⟨hx.trans (s.flaggedDiff_of_ne hxF hyF), hflag hxF⟩
  · rintro hxF rfl
    exact ⟨hx.trans (s.flaggedDiff_VF_right hxF), hflag hxF⟩
  · rintro rfl hyF
    exact hx.trans (s.flaggedDiff_VF_left hyF)
  · rintro rfl rfl
    exact hx.trans (s.flaggedDiff_self VF)

/-- Settles O30, column by column of R124; the minuend is `VY`. -/
theorem reverseSubtractSetsStrictlyGreater : Obligations.ReverseSubtractSetsStrictlyGreater := by
  intro s x y
  obtain ⟨t, e, hx, hflag, hf⟩ := exec_flagThenResult_spec (exec_subn x y s)
  rw [greaterFlag_eq_ite] at hflag
  refine ⟨t, e, hf, fun hxF hyF => ?_, ?_, ?_, ?_⟩
  · exact ⟨hx.trans (s.flaggedDiff_of_ne hyF hxF), hflag hxF⟩
  · rintro hxF rfl
    exact ⟨hx.trans (s.flaggedDiff_VF_left hxF), hflag hxF⟩
  · rintro rfl hyF
    exact hx.trans (s.flaggedDiff_VF_right hyF)
  · rintro rfl rfl
    exact hx.trans (s.flaggedDiff_self VF)

/-! ### The two shifts (R118, R120) -/

theorem byte_shiftRight_one_toNat (b : Byte) : (b >>> 1).toNat = b.toNat / 2 := by
  rw [BitVec.toNat_ushiftRight, Nat.shiftRight_eq_div_pow, pow_one]

theorem byte_shiftLeft_one_toNat (b : Byte) : (b <<< 1).toNat = b.toNat * 2 % 256 := by
  rw [BitVec.toNat_shiftLeft, Nat.shiftLeft_eq, pow_one]

/-- With `X = F` it is the flag, 0 or 1, that `8XY6` shifts, and its one bit falls out. -/
theorem lowBit_shiftRight_one (b : Byte) : lowBit b >>> 1 = 0 := by
  refine BitVec.eq_of_toNat_eq ?_
  rw [byte_shiftRight_one_toNat, lowBit_toNat, BitVec.ofNat_eq_ofNat, BitVec.toNat_zero]
  omega

/-- With `X = F` it is the flag, 0 or 1, that `8XYE` shifts, and nothing falls out. -/
theorem highBit_shiftLeft_one_toNat (b : Byte) : (highBit b <<< 1).toNat = 2 * (b.toNat / 128) := by
  rw [byte_shiftLeft_one_toNat, highBit_toNat]
  omega

/-- Settles O31: the shift reads `VX` once the flag is written, so it shifts the old `VX`, or with `X = F` the flag. -/
theorem shiftsPutTheLostBitIntoTheFlag : Obligations.ShiftsPutTheLostBitIntoTheFlag := by
  intro s x y
  constructor
  · obtain ⟨t, e, hx, hflag, hf⟩ := exec_flagThenResult_spec (i := .shr x y) (s := s) rfl
    refine ⟨t, e, fun _ => e, hf, fun hxF => ⟨?_, ?_⟩, ?_⟩
    · rw [hx, State.reg_setV_ne _ _ hxF, byte_shiftRight_one_toNat]
    · rw [hflag hxF, lowBit_toNat]
    · rintro rfl
      rw [hx, State.reg_setV_same, lowBit_shiftRight_one]
  · obtain ⟨t, e, hx, hflag, hf⟩ := exec_flagThenResult_spec (i := .shl x y) (s := s) rfl
    refine ⟨t, e, fun _ => e, hf, fun hxF => ⟨?_, ?_⟩, ?_⟩
    · rw [hx, State.reg_setV_ne _ _ hxF, byte_shiftLeft_one_toNat]
    · rw [hflag hxF, highBit_toNat]
    · rintro rfl
      rw [hx, State.reg_setV_same, highBit_shiftLeft_one_toNat]

/-! ### The random draw (R33, R121) -/

theorem State.draw_eq_of_randIn {s : State} {r : Fin Config.randMod} (h : s.randIn = some r) : s.draw = r := by
  rw [State.draw, h, Option.getD_some]

theorem State.drawByte_toNat (s : State) : s.drawByte.toNat = s.draw.val := by
  rw [State.drawByte, BitVec.toNat_ofNat]
  have : s.draw.val < 250 := s.draw.isLt
  omega

/-- A mask only clears bits, so no masked draw reaches 250. -/
theorem State.drawByte_and_toNat_lt (s : State) (nn : Byte) : (s.drawByte &&& nn).toNat < 250 := by
  rw [BitVec.toNat_and, State.drawByte_toNat]
  exact Nat.and_le_left.trans_lt s.draw.isLt

/-- `CXNN` writes the masked draw and counts it. -/
theorem exec_rnd_spec (s : State) (x : RegIdx) (nn : Byte) :
    ∃ t, exec (.rnd x nn) s = .next t ∧ t.reg x = s.drawByte &&& nn ∧ Frame [.reg x, .draws] s t :=
  ⟨_, rfl, s.reg_setV_same x _, (frame_setV s _ (by simp)).trans (frame_draws _ _ (by simp))⟩

/-- Settles O32: the draw is the state's own, `State.draw`, whose range is its type. -/
theorem randomMasksADrawBelow250 : Obligations.RandomMasksADrawBelow250 := by
  intro s x nn
  obtain ⟨t, e, hx, hf⟩ := exec_rnd_spec s x nn
  refine ⟨t, e, hf, ⟨s.draw.val, s.draw.isLt, fun r hr => by rw [State.draw_eq_of_randIn hr], hx⟩, fun _ => ?_, ?_⟩
  · rw [hx]
    exact s.drawByte_and_toNat_lt nn
  · rintro rfl
    exact hx.trans BitVec.and_zero

end Sys2Proof.Machine

/-! The index register and memory transfer (spec/42_index_memory.md). Each of `FX33`, `FX55` and `FX65` can go in
two ways, named by its `_cases` lemma: it completes, or an address does not exist and it takes the fault (R174). -/

namespace Sys2Proof.Machine

/-! ### `I` alone (R130, R132) -/

/-- An instruction that writes `a` to `I` and stops there. -/
theorem exec_setI_spec {i : Instr} {s : State} {a : Word} (h : exec i s = .next (s.setI a)) :
    ∃ t, exec i s = .next t ∧ t.i = a ∧ Frame [.index] s t :=
  ⟨_, h, rfl, frame_setI s a (by simp)⟩

/-- Five times a byte is at most 1275, so 16 bits hold it unreduced (R132). -/
theorem zextByte_mul_five_toNat (b : Byte) : (zextByte b * 5).toNat = b.toNat * 5 := by
  have hb : b.toNat < 256 := b.isLt
  have hmod : (zextByte b * 5).toNat = b.toNat * 5 % 65536 := by
    rw [BitVec.toNat_mul, zextByte_toNat]
    rfl
  omega

/-- Settles O33: both write `I` only, and neither value needs more than 16 bits. -/
theorem indexLoads : Obligations.IndexLoads := by
  intro s nnn x
  constructor
  · obtain ⟨t, e, hi, hf⟩ := exec_setI_spec (i := .ldI nnn) (s := s) rfl
    exact ⟨t, e, by rw [hi, zextAddr_toNat], hf⟩
  · obtain ⟨t, e, hi, hf⟩ := exec_setI_spec (i := .ldF x) (s := s) rfl
    exact ⟨t, e, by rw [hi, zextByte_mul_five_toNat], hf⟩

/-! ### `I` and the flag (R131) -/

theorem indexFlag_eq_ite (i : Word) (b : Byte) : indexFlag i b = if i.toNat + b.toNat > 0xFFF then 1 else 0 :=
  flag_decide (i.toNat + b.toNat > 0xFFF)

/-- `I` keeps 16 bits of a sum and is never masked to 12 (R131, log entry 12). -/
theorem add_zextByte_toNat (i : Word) (b : Byte) : (i + zextByte b).toNat = (i.toNat + b.toNat) % 65536 := by
  rw [BitVec.toNat_add, zextByte_toNat]

/-- What `FX1E` does: the flag goes to `VF`, and the `VX` that is then added is read in the state that holds the flag. -/
theorem exec_addI_spec (x : RegIdx) (s : State) : ∃ t, exec (.addI x) s = .next t ∧ Frame [.index, .reg VF] s t ∧
    t.reg VF = indexFlag s.i (s.reg x) ∧ t.i = s.i + zextByte ((s.setV VF (indexFlag s.i (s.reg x))).reg x) :=
  ⟨_, rfl, (frame_setV s _ (by simp)).trans (frame_setI _ _ (by simp)), s.reg_setV_same VF _, rfl⟩

/-- Settles O34: the flag is written first, so `VX` read again is the old `VX`, or with `X = F` the new flag. -/
theorem addToIndexFlagsOverflow : Obligations.AddToIndexFlagsOverflow := by
  intro s x
  obtain ⟨t, e, hf, hflag, hi⟩ := exec_addI_spec x s
  refine ⟨t, e, hf, hflag.trans (indexFlag_eq_ite _ _), fun hx => ?_, ?_⟩
  · rw [hi, s.reg_setV_ne _ hx, add_zextByte_toNat]
  · rintro rfl
    rw [hi, s.reg_setV_same, add_zextByte_toNat, hflag]

/-! ### Decimal digits (R133) -/

@[simp] theorem decimalDigits_length (b : Byte) : (decimalDigits b).length = 3 := rfl

theorem decimalDigits_hundreds (b : Byte) : ((decimalDigits b).getD 0 0).toNat = b.toNat / 100 := by
  have hb : b.toNat < 256 := b.isLt
  exact Nat.mod_eq_of_lt (by omega)

theorem decimalDigits_tens (b : Byte) : ((decimalDigits b).getD 1 0).toNat = b.toNat / 10 % 10 :=
  Nat.mod_eq_of_lt (by omega)

theorem decimalDigits_units (b : Byte) : ((decimalDigits b).getD 2 0).toNat = b.toNat % 10 :=
  Nat.mod_eq_of_lt (by omega)

/-- What an `FX33` that completes does: its three digits stand from `I` up and nothing else is written. -/
theorem exec_ldB_spec {s : State} (x : RegIdx) (hin : s.ea 2 ≤ 4095) :
    ∃ t, exec (.ldB x) s = .next t ∧ Frame [.memory] s t ∧
      (∀ k < 3, t.memory.read (s.ea k) = (decimalDigits (s.reg x)).getD k 0) ∧
      ∀ a, a < s.ea 0 ∨ s.ea 2 < a → t.memory.read a = s.memory.read a := by
  obtain ⟨-, e⟩ | ⟨hout, -⟩ := exec_ldB_cases x s
  · exact ⟨_, e, frame_setMemory s (Memory.writeBytes_font _ _ _) (by simp),
      fun k hk => Memory.read_writeBytes_at (decimalDigits (s.reg x)) hk,
      fun a ha => Memory.read_writeBytes_outside (decimalDigits (s.reg x)) ha⟩
  · exact absurd hin (Nat.not_le.2 hout)

/-- Settles O35: the digits of `exec_ldB_spec` one by one, or the fault. -/
theorem decimalStoreWritesThreeDigits : Obligations.DecimalStoreWritesThreeDigits := by
  intro s x
  constructor
  · intro hin
    obtain ⟨t, e, hf, hdigit, hout⟩ := exec_ldB_spec x hin
    refine ⟨t, e, hf, ?_, ?_, ?_, hout⟩
    · rw [hdigit 0 (by decide), decimalDigits_hundreds]
    · rw [hdigit 1 (by decide), decimalDigits_tens]
    · rw [hdigit 2 (by decide), decimalDigits_units]
  · intro hout
    obtain ⟨hin, -⟩ | ⟨-, e⟩ := exec_ldB_cases x s
    · exact absurd hin (Nat.not_le.2 hout)
    · rw [e]
      exact raiseFault_spec _ s

/-! ### Registers to memory (R134) -/

/-- `I` after an `FX55` that completes. -/
theorem add_ofNat_succ_toNat (i : Word) (x : RegIdx) :
    (i + BitVec.ofNat 16 (x.val + 1)).toNat = (i.toNat + x.val + 1) % 65536 := by
  rw [BitVec.toNat_add, BitVec.toNat_ofNat]
  omega

/-- Settles O36, by the two ways an `FX55` can go, each of which rules out the other's premise. -/
theorem registerStoreWritesThroughX : Obligations.RegisterStoreWritesThroughX := by
  intro s x
  obtain ⟨hin, e⟩ | ⟨hout, e⟩ := exec_storeRegs_cases x s
  · refine ⟨fun _ => ⟨_, e, ?_, fun r hr => read_of_exec_storeRegs hin e hr, fun a ha => ?_, add_ofNat_succ_toNat s.i x⟩,
      fun hout => absurd hin (Nat.not_le.2 hout)⟩
    · exact (frame_setMemory s (Memory.writeBytes_font _ _ _) (by simp)).trans (frame_setI _ _ (by simp))
    · refine Memory.read_writeBytes_outside _ (ha.imp_right fun h => ?_)
      rw [State.regsTo_length]
      exact h
  · rw [e]
    exact ⟨fun hin => absurd hin (Nat.not_le.2 hout), fun _ => raiseFault_spec _ s⟩

/-! ### Memory to registers (R135, R136) -/

/-- All `FX65` can do (R135): its `X` bytes exist, which with `X = 0` they always do, and are loaded, or it takes the
fault. -/
theorem exec_loadRegs_cases (x : RegIdx) (s : State) :
    ((x = 0 ∨ s.ea x.val - 1 ≤ 4095) ∧ exec (.loadRegs x) s = .next (s.loadFirst x.val)) ∨
      (x ≠ 0 ∧ s.ea x.val - 1 > 4095 ∧ exec (.loadRegs x) s = raiseFault .memoryOutOfBounds s) := by
  rw [exec, execLoadRegs]
  rcases guardAccess_cases x.val (fun s => s.loadFirst x.val) s with ⟨hin, e⟩ | ⟨hx, hout, e⟩
  · exact .inl ⟨hin.imp_left fun h => Fin.ext h, e⟩
  · exact .inr ⟨fun h => hx (congrArg Fin.val h), hout, e⟩

/-- Settles O37, by the two ways an `FX65` can go, each of which rules out the other's premise. -/
theorem registerLoadStopsBeforeX : Obligations.RegisterLoadStopsBeforeX := by
  intro s x
  obtain ⟨hin, e⟩ | ⟨hx, hout, e⟩ := exec_loadRegs_cases x s <;> rw [e]
  · refine ⟨fun _ => ⟨_, rfl, fun r => s.reg_loadFirst r x.val x.isLt.le, ?_⟩,
      fun hx hout => absurd hin (not_or.2 ⟨hx, Nat.not_le.2 hout⟩)⟩
    exact frame_loadFirst s x.isLt.le fun r hr => by simpa using hr
  · exact ⟨fun hin => absurd hin (not_or.2 ⟨hx, Nat.not_le.2 hout⟩), fun _ _ => raiseFault_spec _ s⟩

/-- Settles O38: the load reads the addresses the store wrote (R134, R135), all but the last of them. -/
theorem loadAfterStoreRestoresAllButTheLast : Obligations.LoadAfterStoreRestoresAllButTheLast := by
  intro s x t u hin hstore hmem hi
  have hea : ∀ k, u.ea k = s.ea k := fun k => by rw [State.ea, State.ea, hi]
  have huin : u.ea x.val - 1 ≤ 4095 := by rw [hea]; omega
  obtain ⟨w, e, hregs, hf⟩ := (registerLoadStopsBeforeX u x).1 (.inr huin)
  refine ⟨w, e, fun r hr => ?_, ?_, (hf.index (by simp)).trans hi⟩
  · rw [hregs, if_pos hr, hmem, hea, read_of_exec_storeRegs hin hstore hr.le]
  · rw [hregs, if_neg (lt_irrefl x)]

end Sys2Proof.Machine

/-! The display (spec/43_display.md). Clearing puts in a display without a lit cell. A sprite is drawn on a canvas of which
`plotSprite_covers` says what it shows; `DXYN` puts that canvas into the state or takes the fault. -/

namespace Sys2Proof.Machine

/-! ### Clearing (R140) -/

theorem Display.pixel_replicate_zero (x y : Nat) : Display.pixel (Vector.replicate 32 0) x y = false := by
  by_cases hy : y < 32 <;> simp [Display.pixel, hy]

/-- Settles O40: the display put in has no lit cell, and nothing but the display is written. -/
theorem clearTurnsEveryCellOff : Obligations.ClearTurnsEveryCellOff := fun s =>
  ⟨_, rfl, Display.pixel_replicate_zero, frame_setDisplay s _ (by simp)⟩

/-! ### The collision flag (R141) -/

theorem collisionFlag_eq_zero_or_one (hit : Bool) : collisionFlag hit = 0 ∨ collisionFlag hit = 1 := by
  cases hit
  · exact .inl rfl
  · exact .inr rfl

theorem collisionFlag_eq_one_iff (hit : Bool) : collisionFlag hit = 1 ↔ hit = true := by
  cases hit <;> decide

/-! ### Drawing (R141, R143) -/

/-- The canvas `DXYN` draws in `s`: the display it finds, with the sprite at `I` drawn from the two registers as they are
before `VF` is written (log entry 11). -/
def State.drawnCanvas (s : State) (x y : RegIdx) (n : Fin 16) : Canvas :=
  plotSprite s.memory (s.ea 0) n.val ((s.reg x).toNat % 64) ((s.reg y).toNat % 32) (s.display, false)

theorem State.drawnCanvas_covers (s : State) (x y : RegIdx) (n : Fin 16) :
    Covers s.display (spriteCovers s.memory (s.ea 0) n.val ((s.reg x).toNat % 64) ((s.reg y).toNat % 32))
      (s.drawnCanvas x y n) :=
  plotSprite_covers _ _ _ _ _ _

/-- The state that shows a canvas: its picture in `display`, its collision in `VF`. -/
def State.showCanvas (s : State) (c : Canvas) : State := (s.setV VF (collisionFlag c.2)).setDisplay c.1

@[simp] theorem State.showCanvas_display (s : State) (c : Canvas) : (s.showCanvas c).display = c.1 := rfl

@[simp] theorem State.showCanvas_reg_VF (s : State) (c : Canvas) : (s.showCanvas c).reg VF = collisionFlag c.2 :=
  s.reg_setV_same VF _

theorem frame_showCanvas (s : State) (c : Canvas) : Frame [.display, .reg VF] s (s.showCanvas c) :=
  (frame_setV s _ (by simp)).trans (frame_setDisplay _ _ (by simp))

/-- All `DXYN` can do (R141, R174): its `N` bytes exist, which with `N = 0` they always do, and the canvas drawn with them
is shown, or it takes the fault. -/
theorem exec_drw_cases (x y : RegIdx) (n : Fin 16) (s : State) :
    ((n = 0 ∨ s.ea n.val - 1 ≤ 4095) ∧ exec (.drw x y n) s = .next (s.showCanvas (s.drawnCanvas x y n))) ∨
      (n ≠ 0 ∧ s.ea n.val - 1 > 4095 ∧ exec (.drw x y n) s = raiseFault .memoryOutOfBounds s) := by
  rcases guardAccess_cases n.val (fun s => s.showCanvas (s.drawnCanvas x y n)) s with ⟨hin, e⟩ | ⟨hn, hout, e⟩
  · exact .inl ⟨hin.imp_left fun h => Fin.ext h, e⟩
  · exact .inr ⟨fun h => hn (congrArg Fin.val h), hout, e⟩

/-- Settles O41, by the two ways a `DXYN` can go, each of which rules out the other's premise; the canvas that is shown
flips the covered cells and tells whether one of them was on. -/
theorem drawFlipsTheSpriteAndReportsCollision : Obligations.DrawFlipsTheSpriteAndReportsCollision := by
  intro s x y n
  obtain ⟨hin, e⟩ | ⟨hn, hout, e⟩ := exec_drw_cases x y n s <;> rw [e]
  · obtain ⟨hpixel, hhit⟩ := s.drawnCanvas_covers x y n
    refine ⟨fun _ => ⟨_, rfl, frame_showCanvas s _, fun cx cy => ?_, ?_, ?_⟩,
      fun hn hout => absurd hin (not_or.2 ⟨hn, Nat.not_le.2 hout⟩)⟩
    · rw [State.showCanvas_display, hpixel]
    · rw [State.showCanvas_reg_VF]
      exact collisionFlag_eq_zero_or_one _
    · rw [State.showCanvas_reg_VF, collisionFlag_eq_one_iff, hhit]
  · exact ⟨fun hin => absurd hin (not_or.2 ⟨hn, Nat.not_le.2 hout⟩), fun _ _ => raiseFault_spec _ s⟩

end Sys2Proof.Machine

/-! The keyboard (spec/44_keyboard.md). The two key skips are skips on the sampled level of the key or take the fault;
`FX0A` finds the least pressed key or moves `pc` back to itself. -/

namespace Sys2Proof.Machine

/-! ### Key skips (R150, R151, R153, R177) -/

/-- All `EX9E` and `EXA1` can do: `VX` names a key, and they skip when it is down and when it is up; or both take the
fault. -/
theorem exec_keySkip_cases (x : RegIdx) (s : State) :
    ((s.reg x).toNat ≤ 15 ∧ exec (.skp x) s = .next (s.skipIf (s.keyDown (s.reg x).toNat)) ∧
      exec (.sknp x) s = .next (s.skipIf (!s.keyDown (s.reg x).toNat))) ∨
    ((s.reg x).toNat > 15 ∧ exec (.skp x) s = raiseFault .keyIndexOutOfRange s ∧
      exec (.sknp x) s = raiseFault .keyIndexOutOfRange s) := by
  by_cases h : (s.reg x).toNat > 15
  · exact .inr ⟨h, if_pos h, if_pos h⟩
  · exact .inl ⟨Nat.not_lt.1 h, if_neg h, if_neg h⟩

/-- A skip on a negated condition adds 2 to `pc` exactly when the condition fails. -/
theorem State.skipIf_not_pc (s : State) (c : Bool) : (s.skipIf (!c)).pc = if c then s.pc else s.pc + 2 := by
  cases c <;> rfl

/-- Settles O42, by the two ways the key skips can go, each of which rules out the other's premise. -/
theorem keySkipsTestTheLevel : Obligations.KeySkipsTestTheLevel := by
  intro s x
  obtain ⟨hkey, hskp, hsknp⟩ | ⟨hbad, hskp, hsknp⟩ := exec_keySkip_cases x s <;> rw [hskp, hsknp]
  · exact ⟨fun _ => ⟨⟨_, rfl, frame_skipIf s _ (by simp), s.skipIf_pc _⟩,
      ⟨_, rfl, frame_skipIf s _ (by simp), s.skipIf_not_pc _⟩⟩, fun hbad => absurd hkey (Nat.not_le.2 hbad)⟩
  · exact ⟨fun hkey => absurd hkey (Nat.not_le.2 hbad), fun _ => ⟨raiseFault_spec _ s, raiseFault_spec _ s⟩⟩

/-! ### Waiting for a key (R152) -/

/-- The key found is the pressed one below which none is pressed. -/
theorem State.lowestKey_eq_some_iff (s : State) (k : Nat) :
    s.lowestKey = some k ↔ s.keyDown k = true ∧ k < 16 ∧ ∀ j < k, s.keyDown j = false := by
  simp only [State.lowestKey, List.find?_range_eq_some, List.mem_range, Bool.not_eq_true']

/-- Settles O43, by the two ways an `FX0A` can go: the key it finds is the least pressed one, and where it finds none
every level is low. -/
theorem keyWaitTakesTheLowestKeyOrRewinds : Obligations.KeyWaitTakesTheLowestKeyOrRewinds := by
  intro s x
  obtain ⟨k', hfound, e⟩ | ⟨hnone, e⟩ := exec_ldVxK_cases x s <;> rw [e]
  · obtain ⟨hdown', hk', -⟩ := (s.lowestKey_eq_some_iff k').1 hfound
    constructor
    · intro k hdown hleast
      have hlowest : s.lowestKey = some k.val :=
        (s.lowestKey_eq_some_iff k.val).2 ⟨hdown, k.isLt, fun j hj => hleast ⟨j, hj.trans k.isLt⟩ hj⟩
      obtain rfl : k' = k.val := Option.some.inj (hfound.symm.trans hlowest)
      refine ⟨_, rfl, ?_, frame_setV s _ (by simp)⟩
      rw [State.reg_setV_same, BitVec.toNat_ofNat, Nat.mod_eq_of_lt (by omega)]
    · intro hup
      exact absurd (hdown'.symm.trans (hup ⟨k', hk'⟩)) nofun
  · refine ⟨fun k hdown _ => ?_, fun _ => ⟨_, rfl, rfl, frame_setPc s _ (by simp)⟩⟩
    rw [hnone, BitVec.ofNat_eq_ofNat, BitVec.getLsbD_zero] at hdown
    cases hdown

end Sys2Proof.Machine

/-! The timers (spec/45_timers.md). Each of the three instructions is one named update of the state. A timer tick is an
update of the two counters and of the count of tone ticks, and a row of them adds up by induction. -/

namespace Sys2Proof.Machine

/-! ### The three instructions (R160 to R162) -/

/-- Settles O44: `FX07` writes one register and `FX15` and `FX18` one counter each, and the frame of the update says the
rest. -/
theorem timerInstructions : Obligations.TimerInstructions := by
  intro s x
  refine ⟨⟨s.setV x s.delay, rfl, s.reg_setV_same x _, frame_setV s _ ?_⟩,
    ⟨s.setDelay (s.reg x), rfl, s.setDelay_delay _, frame_setDelay s _ ?_⟩,
    ⟨s.setSound (s.reg x), rfl, s.setSound_sound _, frame_setSound s _ ?_⟩⟩ <;> exact List.mem_singleton_self _

/-! ### Timer ticks (R186, R187) -/

/-- A tick that the host asks for is taken off the list and performed. -/
theorem step_timerTick {s : State} {rest : List Request} (hp : s.pending = .timerTick :: rest) :
    step s = .next ({ s with pending := rest } : State).timerTick := by
  simp only [step_eq_serve, State.nextRequest, State.popRequest, hp, List.headD_cons, List.tail_cons, serve]

/-- A tick emits one tone tick, or none when `sound` is 0: the least of 1 and `sound`. -/
theorem State.timerTick_toneTicks_eq_add_min (s : State) :
    s.timerTick.toneTicks = s.toneTicks + min 1 s.sound.toNat := by
  rw [State.timerTick_toneTicks]
  split
  case isTrue hzero => simp [hzero]
  case isFalse hne =>
    have hpos : s.sound.toNat ≠ 0 := fun e => hne (BitVec.eq_of_toNat_eq e)
    omega

/-- Settles O46, by induction on the number of ticks: the first takes 1 from each counter and emits what `sound` allows,
and the others run from what it left. -/
theorem ticksRunTheCountersDown : Obligations.TicksRunTheCountersDown := by
  intro n
  induction n with
  | zero =>
    intro s rest hp
    obtain rfl : s.pending = rest := hp
    exact ⟨s, core_run_zero s, rfl, rfl, by omega, rfl⟩
  | succ n ih =>
    intro s rest hp
    obtain ⟨t, hrun, hdelay, hsound, htone, hrest⟩ :=
      ih ({ s with pending := List.replicate n .timerTick ++ rest } : State).timerTick rest rfl
    simp only [State.timerTick_delay, State.timerTick_sound, State.timerTick_toneTicks_eq_add_min, countDown_toNat]
      at hdelay hsound htone
    exact ⟨t, (core_run_next n (step_timerTick hp)).trans hrun, by omega, by omega, by omega, hrest⟩

end Sys2Proof.Machine

/-! Faults, statuses and timer ticks between CPU cycles (spec/60_exceptions.md). What a cycle of a running core leaves is
said once: it completes, it takes a fault, or it reports a word of no row. After that come the halted core, the timer tick,
and that a tick and a cycle may be served in either order. -/

namespace Sys2Proof.Machine

/-! ### What a cycle of a running core leaves (R171, R173, R178) -/

/-- The fetch fault has a status of its own (R171). -/
theorem Fault.code_ne_fetchOutOfBounds {f : Fault} (hf : f ≠ .fetchOutOfBounds) : f.code ≠ .fetchOutOfBounds := by
  cases f with
  | fetchOutOfBounds => exact absurd rfl hf
  | _ => exact nofun

/-- An instruction that completes leaves the latch and the status as the fetch left them. -/
theorem latch_of_frame_completedParts {i : Instr} {s t : State} (hf : Frame (completedParts i) s t) :
    t.halted = s.halted ∧ t.statusOut = s.statusOut := by
  obtain ⟨hhalted, -, -, -, hstatus⟩ := hf.latch (by simp)
  exact ⟨hhalted, hstatus⟩

section
variable {s t : State} {keysIn : BitVec 16} {rnd : Option (Fin Config.randMod)} {rest : List Request}

/-- A cycle of a running core at a word of no row reports it and does nothing else after the fetch (R76, R172). -/
theorem step_unknown (hh : s.halted = false) (hc : s.NextIsCycle keysIn rnd rest) (hp : s.pc.toNat ≤ 4094)
    (hn : ∀ i, decode (s.wordAt s.pc.toNat) ≠ .ok i) :
    step s = .next (s.started keysIn rnd rest (s.wordAt s.pc.toNat)).unknownOpcode := by
  rw [step_fetched hh hc hp]
  obtain ⟨i, hi, -⟩ | ⟨-, e⟩ := runWord_cases (s.wordAt s.pc.toNat) (s.started keysIn rnd rest (s.wordAt s.pc.toNat))
  · exact absurd hi (hn i)
  · exact e

/-- All that a cycle which fetched can end in: the instruction has completed, it has taken a fault other than the fetch
fault, or the word is of no row. -/
theorem step_fetched_cases (hh : s.halted = false) (hc : s.NextIsCycle keysIn rnd rest) (hp : s.pc.toNat ≤ 4094)
    (h : step s = .next t) :
    ((∃ i, decode (s.wordAt s.pc.toNat) = .ok i) ∧ t.halted = false ∧
      t.statusOut = ⟨.ok, s.wordAt s.pc.toNat, s.pc⟩) ∨
    ((∃ i, decode (s.wordAt s.pc.toNat) = .ok i) ∧ ∃ f, f ≠ Fault.fetchOutOfBounds ∧
      t = (s.started keysIn rnd rest (s.wordAt s.pc.toNat)).latchFault f (s.wordAt s.pc.toNat) s.pc) ∨
    ((∀ i, decode (s.wordAt s.pc.toNat) ≠ .ok i) ∧
      t = (s.started keysIn rnd rest (s.wordAt s.pc.toNat)).unknownOpcode) := by
  by_cases hi : ∃ i, decode (s.wordAt s.pc.toNat) = .ok i
  · obtain ⟨i, hi⟩ := hi
    rw [stepRunsTheDecodedInstruction s keysIn rnd rest i hh hc hp hi] at h
    obtain ⟨t', e, hf⟩ | ⟨-, f, hne, e⟩ := exec_cases i (s.started keysIn rnd rest (s.wordAt s.pc.toNat)) <;>
      rw [e] at h <;> cases h
    · obtain ⟨hhalted, hstatus⟩ := latch_of_frame_completedParts hf
      exact .inl ⟨⟨i, hi⟩, hhalted.trans hh, hstatus⟩
    · exact .inr (.inl ⟨⟨i, hi⟩, f, hne, rfl⟩)
  · have hn := not_exists.1 hi
    rw [step_unknown hh hc hp hn] at h
    cases h
    exact .inr (.inr ⟨hn, rfl⟩)

end

/-- A word that fits none of the rows decodes to no instruction (R78). -/
theorem decode_ne_ok_of_fits_none {w : Word} (h : ∀ r ∈ opcodeRows, r.fits w = false) (i : Instr) : decode w ≠ .ok i :=
  fun hi => Bool.false_ne_true ((h _ (opcodeRow_mem i)).symm.trans (fits_opcodeRow_of_decode hi))

/-- Settles O11: the word decodes to no instruction, and the report is all that follows the fetch. -/
theorem unknownWordOnlyAdvancesThePc : Obligations.UnknownWordOnlyAdvancesThePc := by
  intro s keysIn rnd rest hh hc hp hnone
  exact ⟨_, step_unknown hh hc hp (decode_ne_ok_of_fits_none hnone), rfl, rfl, rfl, rfl⟩

/-- Settles O12: above 4094 the cycle latches the fetch fault; at or below, the status is `OK`, that of another fault or
`UnknownOpcode`. -/
theorem fetchFaultsExactlyAbove4094 : Obligations.FetchFaultsExactlyAbove4094 := by
  intro s keysIn rnd rest hh hc
  refine ⟨fun hp => ⟨_, step_notFetched hh hc hp, rfl, rfl, rfl, rfl, rfl, rfl⟩, fun hp t h => ?_⟩
  obtain ⟨-, -, hstatus⟩ | ⟨-, f, hf, rfl⟩ | ⟨-, rfl⟩ := step_fetched_cases hh hc hp h
  · rw [hstatus]
    exact nofun
  · exact Fault.code_ne_fetchOutOfBounds hf
  · exact nofun

/-- Settles O13: each of the three ends of a cycle that fetched shows the word and its address with the code it is due. -/
theorem everyCycleReportsItsStatus : Obligations.EveryCycleReportsItsStatus := by
  intro s keysIn rnd rest t hh hc hp h
  obtain ⟨⟨i, hi⟩, hrun, hstatus⟩ | ⟨⟨i, hi⟩, f, -, rfl⟩ | ⟨hn, rfl⟩ := step_fetched_cases hh hc hp h
  · rw [hstatus, hrun]
    exact ⟨rfl, rfl, nofun, fun _ _ => rfl, fun hn => absurd hi (hn i)⟩
  · exact ⟨rfl, rfl, fun _ => rfl, nofun, fun hn => absurd hi (hn i)⟩
  · refine ⟨rfl, rfl, fun hhalt => ?_, fun _ ⟨i, hi⟩ => absurd hi (hn i), fun _ => rfl⟩
    exact absurd (hh.symm.trans hhalt) nofun

/-- Settles O14: a cycle that ends halted has latched a fault, of the fetch above 4094 and of the execute phase at or
below, and the latch is all that it wrote after the sample and the fetch; the other ends leave the core running. -/
theorem faultsArePrecise : Obligations.FaultsArePrecise := by
  intro s keysIn rnd rest t hh hc h hhalt
  by_cases hp : s.pc.toNat ≤ 4094
  · obtain ⟨-, hrun, -⟩ | ⟨-, f, hf, rfl⟩ | ⟨-, rfl⟩ := step_fetched_cases hh hc hp h
    · exact absurd (hrun.symm.trans hhalt) nofun
    · exact ⟨.inr ⟨hp, ⟨f, hf, rfl⟩, rfl, rfl⟩, rfl, rfl, rfl, fun _ => rfl, rfl, rfl, rfl, fun _ => rfl, rfl, rfl, rfl⟩
    · exact absurd (hh.symm.trans hhalt) nofun
  · have habove : s.pc.toNat > 4094 := Nat.not_le.1 hp
    rw [step_notFetched hh hc habove] at h
    cases h
    exact ⟨.inl ⟨habove, rfl, rfl, rfl⟩, rfl, rfl, rfl, fun _ => rfl, rfl, rfl, rfl, fun _ => rfl, rfl, rfl, rfl⟩

/-! ### The halted core (R179) -/

/-- A CPU cycle asked of a halted core is taken off the list, and that is all. -/
theorem step_halted_cycle {s : State} {keysIn : BitVec 16} {rnd : Option (Fin Config.randMod)} {rest : List Request}
    (hh : s.halted = true) (hc : s.NextIsCycle keysIn rnd rest) : step s = .next { s with pending := rest } :=
  (step_of_nextIsCycle hc).trans (cpuCycle_halted (s := { s with pending := rest }) hh keysIn rnd)

/-- The core's own state does not include the host's requests. -/
theorem sameCore_pending (s : State) (rest : List Request) : SameCore s { s with pending := rest } where
  regs _ := rfl
  pc := rfl
  index := rfl
  stack := ⟨rfl, rfl⟩
  memory := ⟨rfl, fun _ => rfl⟩
  keyboard := rfl
  display := rfl
  counters := ⟨rfl, rfl⟩
  latch := ⟨rfl, rfl, rfl, rfl⟩

/-- A reset leads to the reset state of the core with the machine's own font (R200). -/
theorem sameCore_resetCore (s : State) : SameCore (State.resetWith s.memory.font) s.resetCore where
  regs _ := rfl
  pc := rfl
  index := rfl
  stack := ⟨rfl, rfl⟩
  memory := ⟨rfl, fun _ => rfl⟩
  keyboard := rfl
  display := rfl
  counters := ⟨rfl, rfl⟩
  latch := ⟨rfl, rfl, rfl, rfl⟩

/-- No request but a reset touches the latch of a halted core or what it shows (R179, R189). -/
theorem step_keeps_latch_of_halted {s t : State} (hh : s.halted = true) (hne : s.nextRequest ≠ .reset)
    (h : step s = .next t) : t.halted = true ∧ t.faultCode = s.faultCode ∧ t.faultWord = s.faultWord ∧
      t.faultAddr = s.faultAddr ∧ t.statusOut = s.statusOut := by
  cases hr : s.nextRequest with
  | cpuCycle keysIn rnd =>
    rw [step_halted_cycle hh (nextIsCycle_of_nextRequest hr)] at h
    cases h
    exact ⟨hh, rfl, rfl, rfl, rfl⟩
  | timerTick =>
    rw [step_eq_serve, hr] at h
    cases h
    exact ⟨hh, rfl, rfl, rfl, rfl⟩
  | reset => exact absurd hr hne
  | load addr data =>
    rw [step_eq_serve, hr, serve] at h
    obtain ⟨-, -, e⟩ | ⟨-, e⟩ | ⟨-, -, e⟩ := loadPort_cases addr data s.popRequest <;> rw [e] at h <;> cases h
    exact ⟨hh, rfl, rfl, rfl, rfl⟩

/-- Settles O15, clause by clause: the cycle that does nothing, the other requests, the reset, and that a final state is
one of a running core. -/
theorem faultedCoreStaysFaultedUntilReset : Obligations.FaultedCoreStaysFaultedUntilReset := by
  intro s hh
  refine ⟨fun keysIn rnd rest hc => ⟨_, step_halted_cycle hh hc, sameCore_pending s rest, rfl, rfl, rfl⟩,
    fun hne t h => step_keeps_latch_of_halted hh hne h, fun hr => ⟨s.popRequest.resetCore, ?_, ?_⟩, ?_⟩
  · rw [step_eq_serve, hr, serve]
  · exact sameCore_resetCore s.popRequest
  · rintro ⟨hsafe, -⟩
    exact absurd (hh.symm.trans hsafe) nofun

/-! ### One timer tick (R186, R187, R189) -/

/-- Settles O45: the tick asks nothing of the latch, takes 1 from each counter and emits the least of 1 and `sound`. -/
theorem timerTickCountsDown : Obligations.TimerTickCountsDown := by
  intro s rest hp
  have htone := ({ s with pending := rest } : State).timerTick_toneTicks_eq_add_min
  simp only at htone
  refine ⟨_, step_timerTick hp, countDown_toNat _, countDown_toNat _, htone.trans ?_, rfl⟩
  split <;> omega

/-! ### A tick and a cycle in either order (R186, R207) -/

/-- The state that a timer tick leaves when `rest` then remains to be served. -/
def State.ticked (s : State) (rest : List Request) : State := ({ s with pending := rest } : State).timerTick

/-- In `s` the action answers, and a tick before it ends where a tick after it does. -/
def TickCommutes (rest : List Request) (act : State → Host.Outcome State Fault Refusal) (s : State) : Prop :=
  ∃ t, act s = .next t ∧ act (s.ticked rest) = .next (t.ticked rest)

theorem State.ticked_skipIf (s : State) (rest : List Request) (c : Bool) :
    (s.ticked rest).skipIf c = (s.skipIf c).ticked rest := by
  cases c <;> rfl

theorem State.ticked_loadFirst (s : State) (rest : List Request) (n : Nat) :
    (s.ticked rest).loadFirst n = (s.loadFirst n).ticked rest := by
  induction n with
  | zero => rfl
  | succ n ih =>
    simp only [State.loadFirst, ih]
    rfl

theorem exec_ldVxK_of_some {s : State} {k : Nat} (h : s.lowestKey = some k) (x : RegIdx) :
    exec (.ldVxK x) s = .next (s.setV x (BitVec.ofNat 8 k)) := by
  simp only [exec, execLdVxK, h]

theorem exec_ldVxK_of_none {s : State} (h : s.lowestKey = none) (x : RegIdx) :
    exec (.ldVxK x) s = .next (s.setPc (s.pc - 2)) := by
  simp only [exec, execLdVxK, h]

/-- A tick moves neither `I` nor memory, so the same accesses are in range. -/
theorem tickCommutes_guardAccess {rest : List Request} {n : Nat} {k : State → State} {s : State}
    (hk : k (s.ticked rest) = (k s).ticked rest) : TickCommutes rest (guardAccess n k) s := by
  by_cases h : accessOk s.i.toNat n = true
  · exact ⟨k s, if_pos h, (if_pos h).trans (congrArg _ hk)⟩
  · exact ⟨_, if_neg h, if_neg h⟩

/-- Only the three timer instructions read or write what a tick writes; every other one goes the same way, fault or no
fault, from the state before and after the tick. -/
theorem tickCommutes_exec {i : Instr} (hi : usesTimers i = false) (rest : List Request) (s : State) :
    TickCommutes rest (exec i) s := by
  cases i with
  | ldVxDT | ldDTVx | ldSTVx => cases hi
  | ret =>
    by_cases h : s.sp = 0
    · exact ⟨_, dif_pos h, dif_pos h⟩
    · exact ⟨_, dif_neg h, dif_neg h⟩
  | call nnn =>
    by_cases h : s.sp.val < 16
    · exact ⟨_, dif_pos h, dif_pos h⟩
    · exact ⟨_, dif_neg h, dif_neg h⟩
  | seImm | sneImm | seReg | sneReg => exact ⟨_, rfl, congrArg _ (s.ticked_skipIf rest _)⟩
  | skp x | sknp x =>
    by_cases h : (s.reg x).toNat > 15
    · exact ⟨_, if_pos h, if_pos h⟩
    · exact ⟨_, if_neg h, (if_neg h).trans (congrArg _ (s.ticked_skipIf rest _))⟩
  | ldVxK x =>
    cases h : s.lowestKey with
    | some k => exact ⟨_, exec_ldVxK_of_some h x, exec_ldVxK_of_some (s := s.ticked rest) h x⟩
    | none => exact ⟨_, exec_ldVxK_of_none h x, exec_ldVxK_of_none (s := s.ticked rest) h x⟩
  | drw | ldB | storeRegs => exact tickCommutes_guardAccess rfl
  | loadRegs x => exact tickCommutes_guardAccess (s.ticked_loadFirst rest x.val)
  | cls | jp | ldImm | addImm | ldReg | orReg | andReg | xorReg | addReg | sub | shr | subn | shl | ldI | jpV0 | rnd
  | addI | ldF => exact ⟨_, rfl, rfl⟩

section
variable {s t : State} {keysIn : BitVec 16} {rnd : Option (Fin Config.randMod)} {rest pend : List Request}

/-- A CPU cycle takes its own request off the list and leaves the others. -/
theorem step_cycle_keeps_requests (hc : s.NextIsCycle keysIn rnd pend) (h : step s = .next t) : t.pending = pend := by
  obtain ⟨-, e⟩ | ⟨-, -, e⟩ | ⟨-, -, i, -, e⟩ | ⟨-, -, -, e⟩ := step_cycle_cases hc <;> rw [e] at h
  · cases h
    rfl
  · cases h
    rfl
  · exact (everyInstructionWritesOnlyItsParts i _ t h).requests
  · cases h
    rfl

/-- A cycle served after a tick goes the way it would have gone before: the tick leaves the latch, `pc` and the word at
`pc` as they were. -/
theorem step_cycle_ticked (hc : s.NextIsCycle keysIn rnd pend)
    (hw : ∀ i, decode (s.wordAt s.pc.toNat) = .ok i → usesTimers i = false) :
    ∃ t, step s = .next t ∧ step (s.ticked (.cpuCycle keysIn rnd :: rest)) = .next (t.ticked rest) := by
  have hc' : (s.ticked (.cpuCycle keysIn rnd :: rest)).NextIsCycle keysIn rnd rest := .inl rfl
  obtain ⟨hh, e⟩ | ⟨hh, hp, e⟩ | ⟨hh, hp, i, hi, e⟩ | ⟨hh, hp, hn, e⟩ := step_cycle_cases hc
  · exact ⟨_, e, step_halted_cycle hh hc'⟩
  · exact ⟨_, e, step_notFetched hh hc' hp⟩
  · obtain ⟨t, hcycle, hticked⟩ :=
      tickCommutes_exec (hw i hi) rest (s.started keysIn rnd pend (s.wordAt s.pc.toNat))
    exact ⟨t, e.trans hcycle, (stepRunsTheDecodedInstruction (s.ticked _) keysIn rnd rest i hh hc' hp hi).trans hticked⟩
  · exact ⟨_, e, step_unknown hh hc' hp hn⟩

end

/-- Settles O48: the cycle goes the same way on both sides of the tick, and leaves the tick to be served next when it
comes first. -/
theorem tickAndCycleCommute : Obligations.TickAndCycleCommute := by
  intro s keysIn rnd rest hw
  have hc : ({ s with pending := .cpuCycle keysIn rnd :: .timerTick :: rest } : State).NextIsCycle keysIn rnd
      (.timerTick :: rest) := .inl rfl
  obtain ⟨cycled, hcycle, hticked⟩ := step_cycle_ticked (rest := rest) hc hw
  exact ⟨_, cycled, cycled.ticked rest, step_timerTick rfl, hticked, hcycle,
    step_timerTick (step_cycle_keeps_requests hc hcycle)⟩

end Sys2Proof.Machine

/-! Reset, the boot image and the end of a run (spec/70_reset_and_hazards.md R200, R202, R207, R210). What a final state
keeps is said once as `State.StandsAs`: each cycle and each tick keeps it, and so does every list of them. -/

namespace Sys2Proof.Machine

/-! ### Reset (R37, R200) -/

/-- A reset that the host asks for is taken off the list and performed. -/
theorem step_reset {s : State} {rest : List Request} (hp : s.pending = .reset :: rest) :
    step s = .next ({ s with pending := rest } : State).resetCore := by
  simp only [step_eq_serve, State.nextRequest, State.popRequest, hp, List.headD_cons, List.tail_cons, serve]

/-- Settles O6: no case is made of the latch, so a halted core resets as a running one does. -/
theorem resetRequestRestoresTheCore : Obligations.ResetRequestRestoresTheCore := by
  intro s rest hp
  exact ⟨_, step_reset hp, sameCore_resetCore { s with pending := rest }, rfl, rfl, rfl⟩

/-! ### The boot image (R54, R202) -/

/-- The boot image is cut to the size of the program region (R54). -/
theorem length_take_maxImageBytes (image : List Byte) : (image.take maxImageBytes).length = min image.length 3584 :=
  List.length_take.trans (Nat.min_comm _ _)

/-- Cutting the image at its end changes none of the bytes before the cut. -/
theorem getD_take_of_lt {image : List Byte} {n k : Nat} (h : k < n) : (image.take n).getD k 0 = image.getD k 0 := by
  rw [List.getD_eq_getElem?_getD, List.getElem?_take_of_lt h, List.getD_eq_getElem?_getD]

/-- Every address of the boot state: inside the cut image its byte, outside it what reset left. -/
theorem State.boot_read (font : Config.Font) (image : List Byte) (a : Nat) :
    (State.boot font image).memory.read a =
      if 0x200 ≤ a ∧ a < 0x200 + min image.length 3584 then image.getD (a - 0x200) 0
      else (State.resetWith font).memory.read a := by
  have hlen := length_take_maxImageBytes image
  change ((State.resetWith font).memory.writeBytes 0x200 (image.take maxImageBytes)).read a = _
  split
  case isTrue hin =>
    obtain ⟨k, rfl⟩ := Nat.exists_eq_add_of_le hin.1
    have hk : k < min image.length 3584 := by omega
    have hcut : k < maxImageBytes := (Nat.lt_min.1 hk).2
    rw [Memory.read_writeBytes_at _ (hlen ▸ hk), getD_take_of_lt hcut, Nat.add_sub_cancel_left]
  case isFalse hout => exact Memory.read_writeBytes_outside _ (by omega)

/-- Settles O49: the boot state is the reset state with memory replaced by one into which the cut image was written. -/
theorem bootPlacesTheImage : Obligations.BootPlacesTheImage := by
  intro font image a
  refine ⟨State.boot_read font image a, ?frame, ?canonical⟩
  case frame => exact frame_setMemory _ (Memory.writeBytes_font _ _ _) (List.mem_singleton_self _)
  case canonical =>
    refine Memory.writeBytes_wf _ (State.resetWith_memory_wf font) ?_
    rw [length_take_maxImageBytes, memBytes, programBase]
    omega

/-! ### One cycle at a self-jump (R101, R210) -/

/-- A cycle of a final state fetches the jump, advances `pc` and puts it back. -/
theorem step_cycle_of_finished {s : State} {keysIn : BitVec 16} {rnd : Option (Fin Config.randMod)}
    {rest : List Request} (hf : s.Finished) (hc : s.NextIsCycle keysIn rnd rest) :
    step s = .next ((s.started keysIn rnd rest (s.wordAt s.pc.toNat)).setPc s.pc) := by
  obtain ⟨hsafe, hp, nnn, hword, hpc⟩ := hf
  have hdecode : decode (s.wordAt s.pc.toNat) = .ok (.jp nnn) := by rw [hword, decode_encode]
  rw [stepRunsTheDecodedInstruction s keysIn rnd rest (.jp nnn) hsafe hc hp hdecode]
  exact congrArg (fun a => Host.Outcome.next (State.setPc _ a)) hpc.symm

/-- Settles O16: the state after the cycle has the latch, the `pc` and the memory of the one before, which are all that
being final asks about. -/
theorem selfJumpChangesNothing : Obligations.SelfJumpChangesNothing := by
  intro s keysIn rnd rest hf hc
  exact ⟨_, step_cycle_of_finished hf hc, hf, rfl, rfl⟩

/-! ### Final states under every interleaving (R186, R207, R210) -/

/-- `t` holds what `s` holds of all that R210 claims about a final state, and is halted exactly when `s` is. -/
structure State.StandsAs (s t : State) : Prop where
  halted : t.halted = s.halted
  regs : t.v = s.v
  pc : t.pc = s.pc
  index : t.i = s.i
  memory : t.memory = s.memory
  display : t.display = s.display
  stack : t.stack = s.stack
  sp : t.sp = s.sp

theorem State.StandsAs.refl (s : State) : s.StandsAs s := ⟨rfl, rfl, rfl, rfl, rfl, rfl, rfl, rfl⟩

theorem State.StandsAs.trans {s t u : State} (h : s.StandsAs t) (h' : t.StandsAs u) : s.StandsAs u where
  halted := h'.halted.trans h.halted
  regs := h'.regs.trans h.regs
  pc := h'.pc.trans h.pc
  index := h'.index.trans h.index
  memory := h'.memory.trans h.memory
  display := h'.display.trans h.display
  stack := h'.stack.trans h.stack
  sp := h'.sp.trans h.sp

theorem State.StandsAs.finished {s t : State} (h : s.StandsAs t) (hf : s.Finished) : t.Finished := by
  simpa only [State.Finished, State.Safe, State.wordAt, h.halted, h.pc, h.memory] using hf

/-- A timer tick moves neither a register nor `pc` nor memory (R186). -/
theorem State.standsAs_ticked (s : State) (rest : List Request) : s.StandsAs (s.ticked rest) :=
  ⟨rfl, rfl, rfl, rfl, rfl, rfl, rfl, rfl⟩

/-- The driver asks for CPU cycles and timer ticks only (R207). -/
def CyclesAndTicks (rs : List Request) : Prop := ∀ r ∈ rs, (∃ keysIn rnd, r = .cpuCycle keysIn rnd) ∨ r = .timerTick

/-- One cycle or one tick leaves a final state standing. -/
theorem step_of_finished {s : State} {r : Request} {rest : List Request} (hf : s.Finished)
    (hr : (∃ keysIn rnd, r = .cpuCycle keysIn rnd) ∨ r = .timerTick) (hp : s.pending = r :: rest) :
    ∃ t, step s = .next t ∧ s.StandsAs t ∧ t.pending = rest := by
  obtain ⟨keysIn, rnd, rfl⟩ | rfl := hr
  · exact ⟨_, step_cycle_of_finished hf (.inl hp), ⟨rfl, rfl, rfl, rfl, rfl, rfl, rfl, rfl⟩, rfl⟩
  · exact ⟨_, step_timerTick hp, s.standsAs_ticked rest, rfl⟩

/-- Any list of cycles and ticks leaves a final state standing, and is served to its end. -/
theorem core_run_of_finished : ∀ (rs : List Request) {s : State}, s.Finished → CyclesAndTicks rs → s.pending = rs →
    ∃ t, core.run rs.length s = .next t ∧ s.StandsAs t ∧ t.pending = []
  | [], s, _, _, hp => ⟨s, core_run_zero s, .refl s, hp⟩
  | r :: rest, _, hf, hrs, hp => by
    obtain ⟨hr, hrest⟩ := List.forall_mem_cons.1 hrs
    obtain ⟨t, hstep, hst, htp⟩ := step_of_finished hf hr hp
    obtain ⟨u, hrun, htu, hup⟩ := core_run_of_finished rest (hst.finished hf) hrest htp
    exact ⟨u, (core_run_next rest.length hstep).trans hrun, hst.trans htu, hup⟩

/-- Settles O53, by induction over the requests: what stands after the first is final again. -/
theorem finalStateStandsUnderEveryInterleaving : Obligations.FinalStateStandsUnderEveryInterleaving := by
  intro s hf hrs
  obtain ⟨t, hrun, hst, hdone⟩ := core_run_of_finished s.pending hf hrs rfl
  have hregs : ∀ r, t.reg r = s.reg r := fun r => congrArg (·[r]) hst.regs
  exact ⟨t, hrun, hst.finished hf, hdone, hregs, hst.pc, hst.index, hst.memory, hst.display, hst.stack, hst.sp⟩

end Sys2Proof.Machine
